-- ==== Sys2Proof/Word.lean ====
section
/-! DEFINITION. The widths of the machine's values. Every value the core holds is unsigned (00_scope R18, 10_state R38). -/

namespace Sys2Proof

/-- A byte of memory, a general register, a timer or an immediate `nn` (10_state R20, R34; 20_memory R50). -/
abbrev Byte := BitVec 8

/-- The 16-bit opcode, and the width of I, of pc and of a stack entry (10_state R24, R26, R28; 30_encoding R70). -/
abbrev Word := BitVec 16

/-- A register index: the 4-bit field x or y of an opcode, each of whose 16 values names a register (30_encoding R78). -/
abbrev Reg := BitVec 4

/-- The 12-bit address field `nnn` (30_encoding R70). -/
abbrev Addr12 := BitVec 12

end Sys2Proof
end

