-- ==== Sys2Proof/Syntax.lean ====
section
/-! DEFINITION. The closed instruction set: one constructor per row of spec/opcode_table.json, 34 in all (30_encoding R80). -/

namespace Sys2Proof

/-- The 34 variants of the decoder (30_encoding R73, R80). Operands are the fields of rule R70. Bits 3:0 of 5XY_ and
9XY_ are not examined and are no operand (R77). -/
inductive Instr where
  /-- 00E0: clear the framebuffer (44_display R170). -/
  | cls
  /-- 00EE: return from subroutine (41_control_flow R110). -/
  | ret
  /-- 1NNN: jump (R111). -/
  | jp (nnn : Addr12)
  /-- 2NNN: call subroutine (R112). -/
  | call (nnn : Addr12)
  /-- 3XNN: skip if Vx = nn (R113). -/
  | seImm (x : Reg) (nn : Byte)
  /-- 4XNN: skip if Vx ≠ nn (R114). -/
  | sneImm (x : Reg) (nn : Byte)
  /-- 5XY_: skip if Vx = Vy (R115). -/
  | seReg (x y : Reg)
  /-- 6XNN: Vx becomes nn (42_register_alu R132). -/
  | ldImm (x : Reg) (nn : Byte)
  /-- 7XNN: Vx becomes Vx + nn (R133). -/
  | addImm (x : Reg) (nn : Byte)
  /-- 8XY0: Vx becomes Vy (R134). -/
  | ldReg (x y : Reg)
  /-- 8XY1: bitwise or (R135). -/
  | or (x y : Reg)
  /-- 8XY2: bitwise and (R136). -/
  | and (x y : Reg)
  /-- 8XY3: bitwise exclusive or (R137). -/
  | xor (x y : Reg)
  /-- 8XY4: add with carry out (R138). -/
  | addReg (x y : Reg)
  /-- 8XY5: Vx minus Vy (R139). -/
  | sub (x y : Reg)
  /-- 8XY6: shift right (R140). -/
  | shr (x y : Reg)
  /-- 8XY7: Vy minus Vx (R141). -/
  | subn (x y : Reg)
  /-- 8XYE: shift left (R142). -/
  | shl (x y : Reg)
  /-- 9XY_: skip if Vx ≠ Vy (41_control_flow R116). -/
  | sneReg (x y : Reg)
  /-- ANNN: I becomes nnn (43_index_memory R150). -/
  | ldI (nnn : Addr12)
  /-- BNNN: jump to V0 + nnn (41_control_flow R117). -/
  | jpV0 (nnn : Addr12)
  /-- CXNN: random byte, masked (45_timers_random R183). -/
  | rnd (x : Reg) (nn : Byte)
  /-- DXYN: draw a sprite of n rows (44_display R171). -/
  | drw (x y : Reg) (n : BitVec 4)
  /-- EX9E: skip if key pressed, a fault stub (46_keypad R190). -/
  | skp (x : Reg)
  /-- EXA1: skip if key not pressed, a fault stub (R191). -/
  | sknp (x : Reg)
  /-- FX07: Vx becomes DT (45_timers_random R180). -/
  | ldVxDt (x : Reg)
  /-- FX0A: wait for a key, a fault stub (46_keypad R192). -/
  | ldVxK (x : Reg)
  /-- FX15: DT becomes Vx (45_timers_random R181). -/
  | ldDtVx (x : Reg)
  /-- FX18: ST becomes Vx (R182). -/
  | ldStVx (x : Reg)
  /-- FX1E: I becomes I + Vx (43_index_memory R151). -/
  | addI (x : Reg)
  /-- FX29: I becomes the glyph address of Vx's low nibble (R152). -/
  | ldF (x : Reg)
  /-- FX33: store the BCD of Vx at I (R153). -/
  | ldB (x : Reg)
  /-- FX55: store V0 to Vx at I, I moves past them (R154). -/
  | ldMemVx (x : Reg)
  /-- FX65: load V0 to Vx from I, I moves past them (R155). -/
  | ldVxMem (x : Reg)
  deriving DecidableEq, Repr

end Sys2Proof
end

