-- ==== Sys2Proof/WellFormed.lean ====
section
/-! DEFINITION. Well-formed instructions. Every operand's range is its type (30_encoding R78: every value of x, y, n, nn
and nnn is legal in every format), so there is no check that a term of `Instr` could fail [log 26]. -/

namespace Sys2Proof

/-- The check on an instruction's operands beyond their types: none, since 30_encoding R78 admits every value of every
field. -/
def Instr.wellFormed : Instr → Bool
  | _ => true

end Sys2Proof
end

