-- ==== Sys2Proof/Decode.lean ====
section
/-! DEFINITION. The decoder of 30_encoding R73, total on every word and on every list of bytes, and after it the encoder
of the patterns of R80. -/

namespace Sys2Proof

/-- Why a word names no variant: the four classes of 30_encoding R75, each with the word; or too few bytes for one. -/
inductive Reject where
  /-- 0NNN, NNN not 0x0E0 or 0x0EE: the machine-subroutine call (R76). -/
  | machineSubroutine (op : Word)
  /-- 8XYn, n in 8, 9, A, B, C, D, F. -/
  | undefinedAlu (op : Word)
  /-- EXkk, kk not 9E or A1. -/
  | undefinedKey (op : Word)
  /-- FXkk, kk not 07, 0A, 15, 18, 1E, 29, 33, 55 or 65. -/
  | undefinedMisc (op : Word)
  /-- Fewer than the two bytes of an opcode (R71); the fetch always gives two. -/
  | truncated
  deriving DecidableEq, Repr

/-- `h`, op[15:12] (30_encoding R70). -/
def fieldH (op : Word) : BitVec 4 := op.extractLsb' 12 4

/-- `x`, op[11:8]. -/
def fieldX (op : Word) : Reg := op.extractLsb' 8 4

/-- `y`, op[7:4]. -/
def fieldY (op : Word) : Reg := op.extractLsb' 4 4

/-- `n`, op[3:0]. -/
def fieldN (op : Word) : BitVec 4 := op.extractLsb' 0 4

/-- `nn`, op[7:0]. -/
def fieldNN (op : Word) : Byte := op.extractLsb' 0 8

/-- `nnn`, op[11:0]. -/
def fieldNNN (op : Word) : Addr12 := op.extractLsb' 0 12

/-- h = 0x0: two words decode, every other 0NNN does not (30_encoding R73, R76). -/
def decodeZero (op : Word) : Except Reject Instr :=
  if op = 0x00E0 then .ok .cls
  else if op = 0x00EE then .ok .ret
  else .error (.machineSubroutine op)

/-- h = 0x8: secondary dispatch on the low nibble (30_encoding R73). -/
def decodeAlu (op : Word) : Except Reject Instr :=
  match fieldN op with
  | 0x0#4 => .ok (.ldReg (fieldX op) (fieldY op))
  | 0x1#4 => .ok (.or (fieldX op) (fieldY op))
  | 0x2#4 => .ok (.and (fieldX op) (fieldY op))
  | 0x3#4 => .ok (.xor (fieldX op) (fieldY op))
  | 0x4#4 => .ok (.addReg (fieldX op) (fieldY op))
  | 0x5#4 => .ok (.sub (fieldX op) (fieldY op))
  | 0x6#4 => .ok (.shr (fieldX op) (fieldY op))
  | 0x7#4 => .ok (.subn (fieldX op) (fieldY op))
  | 0xE#4 => .ok (.shl (fieldX op) (fieldY op))
  | _ => .error (.undefinedAlu op)

/-- h = 0xE: secondary dispatch on the low byte (30_encoding R73). -/
def decodeKey (op : Word) : Except Reject Instr :=
  match fieldNN op with
  | 0x9E#8 => .ok (.skp (fieldX op))
  | 0xA1#8 => .ok (.sknp (fieldX op))
  | _ => .error (.undefinedKey op)

/-- h = 0xF: secondary dispatch on the low byte (30_encoding R73). -/
def decodeMisc (op : Word) : Except Reject Instr :=
  match fieldNN op with
  | 0x07#8 => .ok (.ldVxDt (fieldX op))
  | 0x0A#8 => .ok (.ldVxK (fieldX op))
  | 0x15#8 => .ok (.ldDtVx (fieldX op))
  | 0x18#8 => .ok (.ldStVx (fieldX op))
  | 0x1E#8 => .ok (.addI (fieldX op))
  | 0x29#8 => .ok (.ldF (fieldX op))
  | 0x33#8 => .ok (.ldB (fieldX op))
  | 0x55#8 => .ok (.ldMemVx (fieldX op))
  | 0x65#8 => .ok (.ldVxMem (fieldX op))
  | _ => .error (.undefinedMisc op)

/-- decode(op) of 30_encoding R73: top-level dispatch on the high nibble. The last arm is h = 0xF. -/
def decode (op : Word) : Except Reject Instr :=
  match fieldH op with
  | 0x0#4 => decodeZero op
  | 0x1#4 => .ok (.jp (fieldNNN op))
  | 0x2#4 => .ok (.call (fieldNNN op))
  | 0x3#4 => .ok (.seImm (fieldX op) (fieldNN op))
  | 0x4#4 => .ok (.sneImm (fieldX op) (fieldNN op))
  | 0x5#4 => .ok (.seReg (fieldX op) (fieldY op))
  | 0x6#4 => .ok (.ldImm (fieldX op) (fieldNN op))
  | 0x7#4 => .ok (.addImm (fieldX op) (fieldNN op))
  | 0x8#4 => decodeAlu op
  | 0x9#4 => .ok (.sneReg (fieldX op) (fieldY op))
  | 0xA#4 => .ok (.ldI (fieldNNN op))
  | 0xB#4 => .ok (.jpV0 (fieldNNN op))
  | 0xC#4 => .ok (.rnd (fieldX op) (fieldNN op))
  | 0xD#4 => .ok (.drw (fieldX op) (fieldY op) (fieldN op))
  | 0xE#4 => decodeKey op
  | _ => decodeMisc op

/-- The 16-bit opcode of two consecutive bytes, big-endian (20_memory R55, R57). -/
def bigEndian (hi lo : Byte) : Word := hi ++ lo

/-- Decode the first instruction of a list of bytes and give what follows it (30_encoding R71: always two bytes). -/
def decodeBytes : List Byte → Except Reject (Instr × List Byte)
  | hi :: lo :: rest =>
    match decode (bigEndian hi lo) with
    | .ok i => .ok (i, rest)
    | .error r => .error r
  | _ => .error .truncated

/-- The high byte of a word, at the lower address (20_memory R57). -/
def highByte (op : Word) : Byte := op.extractLsb' 8 8

/-- The low byte of a word, at the higher address (20_memory R57). -/
def lowByte (op : Word) : Byte := op.extractLsb' 0 8

/-- A word as memory holds it. -/
def wordBytes (op : Word) : List Byte := [highByte op, lowByte op]

/-- The opcode whose bits are `w`, of which the opcode table gives `nbits`: bits above `nbits` are zero. -/
def tableWord (nbits w : Nat) : Word := BitVec.ofNat 16 (w % 2 ^ nbits)

/-- What the decoder reads from the instruction whose bits, numbered as spec/opcode_table.json numbers them, are `w`. -/
def decodeTableWord (nbits w : Nat) : Option Instr :=
  match decodeBytes (wordBytes (tableWord nbits w)) with
  | .ok (i, _) => some i
  | .error _ => none

/-- Format NNN of 30_encoding R72. -/
def formatNNN (h : BitVec 4) (nnn : Addr12) : Word := h ++ nnn

/-- Format XNN of 30_encoding R72. -/
def formatXNN (h : BitVec 4) (x : Reg) (nn : Byte) : Word := h ++ x ++ nn

/-- Formats XY and XYN of 30_encoding R72; the last nibble is the sub-opcode or n. -/
def formatXYN (h : BitVec 4) (x y : Reg) (n : BitVec 4) : Word := h ++ x ++ y ++ n

/-- The opcode of an instruction, by the patterns of 30_encoding R80. SE_REG and SNE_REG are written with n = 0 (R90). -/
def encode : Instr → Word
  | .cls => 0x00E0
  | .ret => 0x00EE
  | .jp nnn => formatNNN 0x1 nnn
  | .call nnn => formatNNN 0x2 nnn
  | .seImm x nn => formatXNN 0x3 x nn
  | .sneImm x nn => formatXNN 0x4 x nn
  | .seReg x y => formatXYN 0x5 x y 0x0
  | .ldImm x nn => formatXNN 0x6 x nn
  | .addImm x nn => formatXNN 0x7 x nn
  | .ldReg x y => formatXYN 0x8 x y 0x0
  | .or x y => formatXYN 0x8 x y 0x1
  | .and x y => formatXYN 0x8 x y 0x2
  | .xor x y => formatXYN 0x8 x y 0x3
  | .addReg x y => formatXYN 0x8 x y 0x4
  | .sub x y => formatXYN 0x8 x y 0x5
  | .shr x y => formatXYN 0x8 x y 0x6
  | .subn x y => formatXYN 0x8 x y 0x7
  | .shl x y => formatXYN 0x8 x y 0xE
  | .sneReg x y => formatXYN 0x9 x y 0x0
  | .ldI nnn => formatNNN 0xA nnn
  | .jpV0 nnn => formatNNN 0xB nnn
  | .rnd x nn => formatXNN 0xC x nn
  | .drw x y n => formatXYN 0xD x y n
  | .skp x => formatXNN 0xE x 0x9E
  | .sknp x => formatXNN 0xE x 0xA1
  | .ldVxDt x => formatXNN 0xF x 0x07
  | .ldVxK x => formatXNN 0xF x 0x0A
  | .ldDtVx x => formatXNN 0xF x 0x15
  | .ldStVx x => formatXNN 0xF x 0x18
  | .addI x => formatXNN 0xF x 0x1E
  | .ldF x => formatXNN 0xF x 0x29
  | .ldB x => formatXNN 0xF x 0x33
  | .ldMemVx x => formatXNN 0xF x 0x55
  | .ldVxMem x => formatXNN 0xF x 0x65

/-- The bytes of an instruction as memory holds them. -/
def encodeBytes (i : Instr) : List Byte := wordBytes (encode i)

end Sys2Proof
end

