-- ==== Sys2Proof/Config.lean ====
section
/-! DEFINITION. What an implementation fixes (00_scope R6) and the free values the spec leaves open. -/

namespace Sys2Proof

/-- The parameters of 00_scope R6 that the core's rules read. They are no state of the core (10_state R41); the State
carries them because a step takes no other argument [log 4]. PROGRAM is the argument of LOAD (R13), RAND is
`Config.freeRand`, TIMER_RATE and the schedule are the order of transactions a run is given (45, R15). -/
structure Params where
  /-- FONT_DATA: the bytes reset installs at 0x000 to 0x04F. -/
  fontData : Vector Byte 80
  /-- SHIFT_BY_ONE: 8XY6 and 8XYE ignore Vy and shift by 1. -/
  shiftByOne : Bool
  deriving DecidableEq, Repr

/-- FREE VALUE. The k-th byte the random source delivers (00_scope R8, 45_timers_random R183): nothing is known of it,
so a theorem holds for every random source [log 3]. -/
opaque Config.freeRand : Nat → Byte

end Sys2Proof
end

