-- ==== Sys2Proof/Machine/Font.lean ====
section
/-! DEFINITION. The default FONT_DATA of 10_state R35, glyph by glyph, and the default parameters of 00_scope R6. The
spec marks the bytes as general knowledge (93 G3) [log 4]. -/

namespace Sys2Proof.Machine

/-- Glyphs 0 to 7 of the table of 10_state R35. -/
def defaultGlyphsLow : List Byte :=
  [0xF0, 0x90, 0x90, 0x90, 0xF0,  0x20, 0x60, 0x20, 0x20, 0x70,  0xF0, 0x10, 0xF0, 0x80, 0xF0,  0xF0, 0x10, 0xF0, 0x10, 0xF0,
   0x90, 0x90, 0xF0, 0x10, 0x10,  0xF0, 0x80, 0xF0, 0x10, 0xF0,  0xF0, 0x80, 0xF0, 0x90, 0xF0,  0xF0, 0x10, 0x20, 0x40, 0x40]

/-- Glyphs 8 to F of the table of 10_state R35. -/
def defaultGlyphsHigh : List Byte :=
  [0xF0, 0x90, 0xF0, 0x90, 0xF0,  0xF0, 0x90, 0xF0, 0x10, 0xF0,  0xF0, 0x90, 0xF0, 0x90, 0x90,  0xE0, 0x90, 0xE0, 0x90, 0xE0,
   0xF0, 0x80, 0x80, 0x80, 0xF0,  0xE0, 0x90, 0x90, 0x90, 0xE0,  0xF0, 0x80, 0xF0, 0x80, 0xF0,  0xF0, 0x80, 0xF0, 0x80, 0x80]

/-- The default FONT_DATA: 16 glyphs of 5 bytes. -/
def defaultFont : Vector Byte 80 := ⟨(defaultGlyphsLow ++ defaultGlyphsHigh).toArray, by rfl⟩

/-- The defaults of 00_scope R6: the conventional font, SHIFT_BY_ONE false. -/
def defaultParams : Params := { fontData := defaultFont, shiftByOne := false }

end Sys2Proof.Machine
end

