-- ==== Sys2Proof/Machine/Framebuffer.lean ====
section
/-! DEFINITION. The framebuffer of 10_state R32, a grid of 64 columns and 32 rows of one-bit cells, and the composition
of a sprite on it (44_display R171 to R173). -/

namespace Sys2Proof.Machine

/-- 32 rows of 64 cells: FB[x + 64*y] of 10_state R32 is column x of row y. -/
abbrev Framebuffer := Vector (Vector Bool 64) 32

/-- Every cell clear. -/
def Framebuffer.clear : Framebuffer := Vector.replicate 32 (Vector.replicate 64 false)

/-- The cell at column x and row y (10_state R32). -/
def Framebuffer.cell (fb : Framebuffer) (x : Fin 64) (y : Fin 32) : Bool := fb[y][x]

/-- FB[k] by the linear index k = x + 64*y (10_state R32). -/
def Framebuffer.linear (fb : Framebuffer) (k : Fin 2048) : Bool :=
  Framebuffer.cell fb ⟨k.val % 64, by omega⟩ ⟨k.val / 64, by omega⟩

/-- Exclusive-or of 1 into the cell at (x, y). -/
def Framebuffer.flip (fb : Framebuffer) (x : Fin 64) (y : Fin 32) : Framebuffer :=
  fb.set y (fb[y].set x (!fb[y][x]))

/-- A column reaching the framebuffer, reduced modulo the axis (10_state R33). -/
def wrapColumn (x : Nat) : Fin 64 := ⟨x % 64, by omega⟩

/-- A row reaching the framebuffer, reduced modulo the axis (10_state R33). -/
def wrapRow (y : Nat) : Fin 32 := ⟨y % 32, by omega⟩

/-- Bit `7 - c` of a sprite byte, the pixel of column c: bit 7 is leftmost (44_display R172). -/
def spriteBit (b : Byte) (c : Nat) : Bool := b.getLsbD (7 - c)

/-- The framebuffer during a draw, and whether a set cell has been cleared so far (44_display R171). -/
structure Canvas where
  fb : Framebuffer
  collision : Bool
  deriving DecidableEq, Repr

/-- Flip one cell and note a collision where it was set (44_display R171, R173). -/
def Canvas.flipCell (k : Canvas) (x : Fin 64) (y : Fin 32) : Canvas :=
  { fb := Framebuffer.flip k.fb x y, collision := k.collision || Framebuffer.cell k.fb x y }

/-- Column c of a sprite byte whose column 0 falls at `px`, in row `py`. -/
def Canvas.drawColumn (b : Byte) (px py : Nat) (k : Canvas) (c : Nat) : Canvas :=
  if spriteBit b c then Canvas.flipCell k (wrapColumn (px + c)) (wrapRow py) else k

/-- One sprite byte, columns left to right (44_display R171). -/
def Canvas.drawByte (k : Canvas) (b : Byte) (px py : Nat) : Canvas :=
  (List.range 8).foldl (Canvas.drawColumn b px py) k

/-- The rows of a sprite, top to bottom, the first at `py` (44_display R171). -/
def Canvas.drawSprite (px : Nat) : Canvas → Nat → List Byte → Canvas
  | k, _, [] => k
  | k, py, b :: bs => Canvas.drawSprite px (Canvas.drawByte k b px py) (py + 1) bs

end Sys2Proof.Machine
end

