-- ==== Sys2Proof/Machine/Memory.lean ====
section
/-! DEFINITION. The memory of 20_memory R50: a sorted list of the bytes that differ from their reset contents, with its
read of one byte, its write of one byte and its canonical form [log 6]. -/

namespace Sys2Proof.Machine

/-- The listed cells, addresses strictly rising, none equal to what an unlisted address reads as. -/
abbrev Memory := List Host.Cell

/-- The number of bytes of memory: addresses 0x000 to 0xFFF (20_memory R50). -/
def memorySize : Nat := 0x1000

/-- What an unlisted address reads as: its contents after reset (10_state R39), FONT_DATA at 0x000 to 0x04F, else 0. -/
def unlistedByte (font : Vector Byte 80) (a : Nat) : Byte :=
  if h : a < 80 then font[a] else 0

/-- The byte at address `a`. -/
def Memory.read (font : Vector Byte 80) : Memory → Nat → Byte
  | [], a => unlistedByte font a
  | (b, v) :: m, a => if a = b then v else Memory.read font m a

/-- List the cell (a, v), in address order, replacing an entry for `a`. -/
def Memory.insert : Memory → Nat → Byte → Memory
  | [], a, v => [(a, v)]
  | (b, w) :: m, a, v =>
    if a = b then (a, v) :: m else if a < b then (a, v) :: (b, w) :: m else (b, w) :: Memory.insert m a v

/-- Unlist address `a`. -/
def Memory.erase : Memory → Nat → Memory
  | [], _ => []
  | (b, w) :: m, a => if a = b then Memory.erase m a else (b, w) :: Memory.erase m a

/-- Store `v` at `a`, keeping the canonical form: a value that an unlisted address reads as is not listed. -/
def Memory.write (font : Vector Byte 80) (m : Memory) (a : Nat) (v : Byte) : Memory :=
  if v = unlistedByte font a then Memory.erase m a else Memory.insert m a v

/-- The canonical form from address `lo` on: addresses strictly rising, from `lo` up and inside memory, no entry equal to
what its address reads as unlisted. -/
def Memory.wfFrom (font : Vector Byte 80) : Nat → Memory → Bool
  | _, [] => true
  | lo, (a, v) :: m => decide (lo ≤ a) && decide (a < memorySize) && decide (v ≠ unlistedByte font a) && Memory.wfFrom font (a + 1) m

/-- The canonical form of memory. -/
def Memory.wf (font : Vector Byte 80) (m : Memory) : Bool := Memory.wfFrom font 0 m

end Sys2Proof.Machine
end

