-- ==== Sys2Proof/Machine/State.lean ====
section
/-! DEFINITION. The state of the core (10_state R20 to R41), the five faults (60_exceptions R200) and the state after
reset (10_state R39). -/

namespace Sys2Proof.Machine

/-- The five fault values of 60_exceptions R200. The core TAKES a fault: the step's next state is the state before it
with the latch set (40_step R105), so these are values of the latch `State.fault` and no step answers
`Host.Outcome.fault` [log 1]. -/
inductive Fault where
  /-- Raised by every step whose opcode decodes to nothing; the payload is the literal opcode (R200, R201). Safe: the
  spec's own fault. -/
  | decodeFailure (op : Word)
  /-- Raised by CALL when SP = 16 (10_state R30). Safe: the spec's own fault. -/
  | stackOverflow
  /-- Raised by RET when SP = 0 (10_state R31). Safe: the spec's own fault. -/
  | stackUnderflow
  /-- Raised by the fetch, DRW, LD_B, LD_MEM_VX and LD_VX_MEM when an access leaves memory; the payload is the lowest
  address outside it (20_memory R53, R55). Safe: the spec's own fault, its payload the spec's own choice [log 11]. -/
  | memoryOutOfBounds (address : Word)
  /-- Raised by SKP, SKNP and LD_VX_K on every execution; the payload is the literal opcode (46_keypad R190 to R192).
  Safe: the spec's own fault. -/
  | unsupportedWithoutInputCollaborator (op : Word)
  deriving DecidableEq, Repr

/-- Why a step has no meaning. -/
inductive Refusal where
  /-- Raised by an arm of `exec` whose instruction has no meaning yet; no arm is left so. Safe: the model stops. -/
  | notModelled (mnemonic : String)
  deriving DecidableEq, Repr

/-- The architectural state, and the model's own fields `params` and `draws`. -/
structure State where
  /-- V0 to VF (10_state R20); VF, the flags register, is entry 15 (R22). -/
  regs : Vector Byte 16
  /-- I (10_state R24). -/
  i : Word
  /-- pc (10_state R26). -/
  pc : Word
  /-- S[0] to S[15] (10_state R28). -/
  stack : Vector Word 16
  /-- SP, the number of stack entries in use (10_state R28, R29). -/
  sp : Fin 17
  /-- FB (10_state R32). -/
  fb : Framebuffer
  /-- DT (10_state R34). -/
  dt : Byte
  /-- ST (10_state R34). -/
  st : Byte
  /-- mem (20_memory R50), in canonical form. -/
  mem : Memory
  /-- FAULT, the latch: none is NONE (10_state R37). -/
  fault : Option Fault
  /-- The model's own: the parameters of 00_scope R6, which nothing changes [log 4]. -/
  params : Params
  /-- The model's own: how many random bytes have been consumed [log 3]. -/
  draws : Nat
  deriving DecidableEq, Repr

/-- The state after RESET under the parameters `p`, every element at the value of 10_state R39. `draws`, the model's own
count of the free random bytes, is not reset by a RESET (70_reset_and_hazards R223), so it is an argument. -/
def State.resetWith (p : Params) (draws : Nat) : State where
  regs := Vector.replicate 16 0
  i := 0
  pc := 0x200
  stack := Vector.replicate 16 0
  sp := 0
  fb := Framebuffer.clear
  dt := 0
  st := 0
  mem := []
  fault := none
  params := p
  draws := draws

/-- The machine right after reset, under the default parameters of 00_scope R6. -/
def State.reset : State := State.resetWith defaultParams 0

end Sys2Proof.Machine
end

