-- ==== Sys2Proof/Machine/Ops.lean ====
section
/-! DEFINITION. The named operations over the state: registers, pc, memory, stack, the fetch, and taking a fault. -/

namespace Sys2Proof.Machine

/-- What a step or a meaning answers. -/
abbrev StepOutcome := Host.Outcome State Fault Refusal

/-! ## Registers -/

/-- Read V[r] (10_state R20). -/
def State.getV (s : State) (r : Reg) : Byte := s.regs[r.toNat]'(r.isLt)

/-- Write V[r] (10_state R20). No register is hardwired. -/
def State.setV (s : State) (r : Reg) (v : Byte) : State := { s with regs := s.regs.set r.toNat v r.isLt }

/-- Write I (10_state R24). -/
def State.setI (s : State) (v : Word) : State := { s with i := v }

/-- The register that is also the flags register (10_state R22). -/
def vf : Reg := 0xF

/-! ## The program counter -/

/-- pc' = pc + 2, the normal advance (40_step R104) [log 18]. -/
def State.advance (s : State) : State := { s with pc := s.pc + 2 }

/-- pc' = t (40_step R104). -/
def State.jumpTo (s : State) (t : Word) : State := { s with pc := t }

/-- pc' = pc + 4 where the condition holds, else pc + 2 (40_step R104). -/
def State.skipIf (s : State) (taken : Bool) : State := { s with pc := if taken then s.pc + 4 else s.pc + 2 }

/-! ## Memory -/

/-- The byte memory holds at `a`. -/
def State.peek (s : State) (a : Nat) : Byte := Memory.read s.params.fontData s.mem a

/-- The state with the byte `v` stored at `a`. -/
def State.poke (s : State) (a : Nat) (v : Byte) : State := { s with mem := Memory.write s.params.fontData s.mem a v }

/-- The state with the bytes stored at consecutive addresses from `a`. -/
def State.pokeBytes (s : State) (a : Nat) : List Byte → State
  | [] => s
  | b :: bs => State.pokeBytes (s.poke a b) (a + 1) bs

/-- The lowest address outside memory of a range that starts at `a` and leaves it: max(a, 0x1000) (20_memory R53). -/
def lowestOutside (a : Word) : Word := if a.toNat < memorySize then 0x1000 else a

/-- CheckRange(a, n) of 20_memory R53, computed without wrap; n = 0 checks nothing. -/
def checkRange (a : Word) (n : Nat) : Except Fault Unit :=
  if n = 0 then .ok ()
  else if a.toNat + n - 1 > 0xFFF then .error (.memoryOutOfBounds (lowestOutside a))
  else .ok ()

/-- MemRead(a, 1) of 20_memory R52. It is called only after a range check has passed; an address outside memory would
raise MemoryOutOfBounds all the same [log 19]. -/
def memRead (s : State) (a : Nat) : Except Fault Byte :=
  if a < memorySize then .ok (s.peek a) else .error (.memoryOutOfBounds (BitVec.ofNat 16 a))

/-- MemWrite(a, 1, v) of 20_memory R52, guarded as `memRead` is [log 19]. -/
def memWrite (s : State) (a : Nat) (v : Byte) : Except Fault State :=
  if a < memorySize then .ok (s.poke a v) else .error (.memoryOutOfBounds (BitVec.ofNat 16 a))

/-- Read `n` consecutive bytes from `a`, in ascending address order (20_memory R57). -/
def loadBytes (s : State) (a : Nat) : Nat → Except Fault (List Byte)
  | 0 => .ok []
  | n + 1 =>
    match memRead s a with
    | .error f => .error f
    | .ok b =>
      match loadBytes s (a + 1) n with
      | .error f => .error f
      | .ok bs => .ok (b :: bs)

/-- Store the bytes at consecutive addresses from `a`, in ascending address order (20_memory R57). -/
def storeBytes (s : State) (a : Nat) : List Byte → Except Fault State
  | [] => .ok s
  | b :: bs =>
    match memWrite s a b with
    | .error f => .error f
    | .ok t => storeBytes t (a + 1) bs

/-- CheckRange, then the reads (20_memory R53, R54): an access that leaves memory reads nothing. -/
def loadRange (s : State) (a : Word) (n : Nat) : Except Fault (List Byte) :=
  match checkRange a n with
  | .error f => .error f
  | .ok _ => loadBytes s a.toNat n

/-- CheckRange, then the writes (20_memory R53, R54): an access that leaves memory writes nothing. -/
def storeRange (s : State) (a : Word) (bs : List Byte) : Except Fault State :=
  match checkRange a bs.length with
  | .error f => .error f
  | .ok _ => storeBytes s a.toNat bs

/-! ## The call stack -/

/-- Push(v) of 10_state R30. -/
def push (s : State) (v : Word) : Except Fault State :=
  if h : s.sp.val = 16 then .error .stackOverflow
  else .ok { s with stack := s.stack.set s.sp.val v (by omega), sp := ⟨s.sp.val + 1, by omega⟩ }

/-- Pop() of 10_state R31. -/
def pop (s : State) : Except Fault (Word × State) :=
  if h : s.sp.val = 0 then .error .stackUnderflow
  else .ok (s.stack[s.sp.val - 1]'(by omega), { s with sp := ⟨s.sp.val - 1, by omega⟩ })

/-! ## Taking a fault -/

/-- TAKING A FAULT: every element stays as it was before the step, pc included, and FAULT <- f (40_step R105,
60_exceptions R204). The step's response FAULT(f) is read from the latch (`State.response`) [log 1]. There is no return
from a fault; RESET clears the latch (60_exceptions R205, `State.doReset`). -/
def takeFault (f : Fault) (s : State) : StepOutcome := .next { s with fault := some f }

/-- Commit what a rule wrote, or, where it raised a fault, take the fault from the state before the step (40_step R105 to
R107): all or nothing. -/
def attempt (s : State) (r : Except Fault State) : StepOutcome :=
  match r with
  | .ok t => .next t
  | .error f => takeFault f s

/-! ## The fetch -/

/-- Fetch() of 20_memory R55: two bytes at pc, big-endian, or MemoryOutOfBounds. No alignment rule (R56). -/
def fetch (s : State) : Except Fault Word :=
  if s.pc.toNat + 1 > 0xFFF then .error (.memoryOutOfBounds (lowestOutside s.pc))
  else .ok (bigEndian (s.peek s.pc.toNat) (s.peek (s.pc.toNat + 1)))

/-- The number of a fault (60_exceptions R200); 0 is no fault. -/
def faultCode : Option Fault → Nat
  | none => 0
  | some (.decodeFailure _) => 1
  | some .stackOverflow => 2
  | some .stackUnderflow => 3
  | some (.memoryOutOfBounds _) => 4
  | some (.unsupportedWithoutInputCollaborator _) => 5

/-- The payload of a fault, where it carries one (60_exceptions R200). -/
def faultPayload : Fault → Option Word
  | .decodeFailure op => some op
  | .stackOverflow => none
  | .stackUnderflow => none
  | .memoryOutOfBounds a => some a
  | .unsupportedWithoutInputCollaborator op => some op

end Sys2Proof.Machine
end

