-- ==== Sys2Proof/Machine/Flags.lean ====
section
/-! DEFINITION. Every flag computation (10_state R23, 42_register_alu R138 to R144): from operands read at the start of
the step, a flag value is 0 or 1, and VF is written after Vx (R131). -/

namespace Sys2Proof.Machine

/-- A flag as the byte VF receives: 0x00 or 0x01 (10_state R23). -/
def flagByte (b : Bool) : Byte := if b then 1 else 0

/-- VF <- flag (10_state R22). -/
def State.setFlag (s : State) (b : Bool) : State := s.setV vf (flagByte b)

/-- Carry of ADD_REG: the unsigned sum exceeds 0xFF (42_register_alu R138). -/
def carryOut (a b : Byte) : Bool := decide (a.toNat + b.toNat > 0xFF)

/-- No borrow of a - b, the flag of SUB and SUBN (42_register_alu R139, R141). -/
def noBorrow (a b : Byte) : Bool := decide (a.toNat ≥ b.toNat)

/-- The flag of SHR: bit 0 of the original Vx, whatever the amount (42_register_alu R140, R144). -/
def lowBit (a : Byte) : Bool := a.getLsbD 0

/-- The flag of SHL: bit 7 of the original Vx, whatever the amount (42_register_alu R142, R144). -/
def highBit (a : Byte) : Bool := a.getLsbD 7

/-- Write the result to V[x], then the flag to VF: with x = 15 the flag stays (42_register_alu R131) [log 9]. -/
def State.setResultThenFlag (s : State) (x : Reg) (v : Byte) (flag : Bool) : State := (s.setV x v).setFlag flag

end Sys2Proof.Machine
end

