-- ==== Sys2Proof/Machine/Operands.lean ====
section
/-! DEFINITION. The operand forms: zero-extended addresses (30_encoding R78), shift amounts and shifted values
(42_register_alu R140, R142, R144), glyph addresses and BCD digits (43_index_memory R152, R153), the register list of the
block transfers (R154, R155), and the two addressing modes through I (R156). -/

namespace Sys2Proof.Machine

/-- zext_16(nnn) (30_encoding R78). -/
def zextAddr (nnn : Addr12) : Word := nnn.setWidth 16

/-- zext_16(v) of a byte (00_scope R18). -/
def zextByte (v : Byte) : Word := v.setWidth 16

/-- The shift amount of SHR and SHL: 1 under SHIFT_BY_ONE, else the whole byte Vy (42_register_alu R144) [log 8]. -/
def shiftAmount (s : State) (y : Reg) : Nat := if s.params.shiftByOne then 1 else (s.getV y).toNat

/-- Logical right shift, 0 for amounts of 8 or more (42_register_alu R140). -/
def shiftRight (v : Byte) (k : Nat) : Byte := if k ≥ 8 then 0 else BitVec.ofNat 8 (v.toNat / 2 ^ k)

/-- Left shift modulo 256, 0 for amounts of 8 or more (42_register_alu R142). -/
def shiftLeft (v : Byte) (k : Nat) : Byte := if k ≥ 8 then 0 else BitVec.ofNat 8 (v.toNat * 2 ^ k)

/-- FONT_BASE (00_scope R5). -/
def fontBase : Nat := 0x000

/-- The address of the glyph of the low nibble of `v` (43_index_memory R152). -/
def glyphAddress (v : Byte) : Word := BitVec.ofNat 16 (fontBase + (v &&& 0x0F).toNat * 5)

/-- Hundreds, tens and ones of `v` (43_index_memory R153). -/
def bcdDigits (v : Byte) : List Byte :=
  [BitVec.ofNat 8 (v.toNat / 100), BitVec.ofNat 8 (v.toNat / 10 % 10), BitVec.ofNat 8 (v.toNat % 10)]

/-- How many registers a block transfer with the field x moves: x + 1, inclusive (43_index_memory R154). -/
def blockLength (x : Reg) : Nat := x.toNat + 1

/-- The address of the k-th byte of an access through I (43_index_memory R156). -/
def indexAddress (s : State) (k : Nat) : Nat := s.i.toNat + k

/-- V0 to Vx, in order (43_index_memory R154). -/
def registerList (s : State) (x : Reg) : List Byte := (List.range (blockLength x)).map fun k => s.getV (BitVec.ofNat 4 k)

/-- Write the bytes to V[k], V[k + 1], ... (43_index_memory R155). -/
def setRegisters (s : State) (k : Nat) : List Byte → State
  | [] => s
  | b :: bs => setRegisters (s.setV (BitVec.ofNat 4 k) b) (k + 1) bs

/-- The post-increment of the second addressing mode: I <- I + x + 1 (43_index_memory R156). -/
def State.bumpIndex (s : State) (x : Reg) : State := s.setI (s.i + BitVec.ofNat 16 (blockLength x))

end Sys2Proof.Machine
end

