-- ==== Sys2Proof/Machine/Alu.lean ====
section
/-! DEFINITION. Register load and ALU (42_register_alu.md). Operands are read from the state before any write (R130), and
none of these instructions faults. -/

namespace Sys2Proof.Machine

/-- LD Vx, byte (42_register_alu R132). -/
def execLdImm (x : Reg) (nn : Byte) (s : State) : StepOutcome := .next (s.setV x nn).advance

/-- ADD Vx, byte: modulo 256, no flag (42_register_alu R133) [log 10]. -/
def execAddImm (x : Reg) (nn : Byte) (s : State) : StepOutcome := .next (s.setV x (s.getV x + nn)).advance

/-- LD Vx, Vy (42_register_alu R134). -/
def execLdReg (x y : Reg) (s : State) : StepOutcome := .next (s.setV x (s.getV y)).advance

/-- OR Vx, Vy: VF unaffected (42_register_alu R135). -/
def execOr (x y : Reg) (s : State) : StepOutcome := .next (s.setV x (s.getV x ||| s.getV y)).advance

/-- AND Vx, Vy: VF unaffected (42_register_alu R136). -/
def execAnd (x y : Reg) (s : State) : StepOutcome := .next (s.setV x (s.getV x &&& s.getV y)).advance

/-- XOR Vx, Vy: VF unaffected (42_register_alu R137). -/
def execXor (x y : Reg) (s : State) : StepOutcome := .next (s.setV x (s.getV x ^^^ s.getV y)).advance

/-- ADD Vx, Vy: VF = carry (42_register_alu R138). -/
def execAddReg (x y : Reg) (s : State) : StepOutcome :=
  .next (s.setResultThenFlag x (s.getV x + s.getV y) (carryOut (s.getV x) (s.getV y))).advance

/-- SUB Vx, Vy: Vx - Vy, VF = no borrow (42_register_alu R139). -/
def execSub (x y : Reg) (s : State) : StepOutcome :=
  .next (s.setResultThenFlag x (s.getV x - s.getV y) (noBorrow (s.getV x) (s.getV y))).advance

/-- SHR Vx, Vy: VF = bit 0 of the original Vx (42_register_alu R140). -/
def execShr (x y : Reg) (s : State) : StepOutcome :=
  .next (s.setResultThenFlag x (shiftRight (s.getV x) (shiftAmount s y)) (lowBit (s.getV x))).advance

/-- SUBN Vx, Vy: Vy - Vx, VF = no borrow (42_register_alu R141). -/
def execSubn (x y : Reg) (s : State) : StepOutcome :=
  .next (s.setResultThenFlag x (s.getV y - s.getV x) (noBorrow (s.getV y) (s.getV x))).advance

/-- SHL Vx, Vy: VF = bit 7 of the original Vx (42_register_alu R142). -/
def execShl (x y : Reg) (s : State) : StepOutcome :=
  .next (s.setResultThenFlag x (shiftLeft (s.getV x) (shiftAmount s y)) (highBit (s.getV x))).advance

end Sys2Proof.Machine
end

