-- ==== Sys2Proof/Machine/ControlFlow.lean ====
section
/-! DEFINITION. Control flow: RET, JP, CALL, the four skips, JP V0 (41_control_flow.md). -/

namespace Sys2Proof.Machine

/-- RET: pop t, pc' = t + 2; StackUnderflow when SP = 0 (41_control_flow R110) [log 7]. -/
def execRet (s : State) : StepOutcome :=
  attempt s <|
    match pop s with
    | .error f => .error f
    | .ok (t, s1) => .ok (s1.jumpTo (t + 2))

/-- JP: pc' = nnn (41_control_flow R111). -/
def execJp (nnn : Addr12) (s : State) : StepOutcome := .next (s.jumpTo (zextAddr nnn))

/-- CALL: push the CALL's own address, pc' = nnn; StackOverflow when SP = 16 (41_control_flow R112). -/
def execCall (nnn : Addr12) (s : State) : StepOutcome :=
  attempt s <|
    match push s s.pc with
    | .error f => .error f
    | .ok s1 => .ok (s1.jumpTo (zextAddr nnn))

/-- SE Vx, byte (41_control_flow R113). -/
def execSeImm (x : Reg) (nn : Byte) (s : State) : StepOutcome := .next (s.skipIf (s.getV x == nn))

/-- SNE Vx, byte (41_control_flow R114). -/
def execSneImm (x : Reg) (nn : Byte) (s : State) : StepOutcome := .next (s.skipIf (s.getV x != nn))

/-- SE Vx, Vy (41_control_flow R115). -/
def execSeReg (x y : Reg) (s : State) : StepOutcome := .next (s.skipIf (s.getV x == s.getV y))

/-- SNE Vx, Vy (41_control_flow R116). -/
def execSneReg (x y : Reg) (s : State) : StepOutcome := .next (s.skipIf (s.getV x != s.getV y))

/-- JP V0: pc' = V0 + nnn, not truncated to 12 bits (41_control_flow R117) [log 17]. -/
def execJpV0 (nnn : Addr12) (s : State) : StepOutcome := .next (s.jumpTo (zextByte (s.getV 0) + zextAddr nnn))

end Sys2Proof.Machine
end

