-- ==== Sys2Proof/Machine/Display.lean ====
section
/-! DEFINITION. Framebuffer instructions (44_display.md). -/

namespace Sys2Proof.Machine

/-- CLS: every cell clear, no flag (44_display R170). -/
def execCls (s : State) : StepOutcome := .next { s with fb := Framebuffer.clear }.advance

/-- The canvas of a draw at (Vx, Vy) of the given sprite bytes, on the framebuffer of `s` (44_display R171). -/
def drawn (s : State) (x y : Reg) (rows : List Byte) : Canvas :=
  Canvas.drawSprite (s.getV x).toNat { fb := s.fb, collision := false } (s.getV y).toNat rows

/-- DRW Vx, Vy, n: n sprite rows from I by exclusive or, then VF <- collision (44_display R171). The rows are read first:
the framebuffer is separate storage, so the order of reads and flips cannot change the result [log 20]. -/
def execDrw (x y : Reg) (n : BitVec 4) (s : State) : StepOutcome :=
  attempt s <|
    match loadRange s s.i n.toNat with
    | .error f => .error f
    | .ok rows => .ok ({ s with fb := (drawn s x y rows).fb }.setFlag (drawn s x y rows).collision).advance

end Sys2Proof.Machine
end

