-- ==== Sys2Proof/Machine/IndexMemory.lean ====
section
/-! DEFINITION. The index register and the accesses through it (43_index_memory.md). A range check comes before the first
access, and a fault leaves every location unwritten (40_step R105). -/

namespace Sys2Proof.Machine

/-- LD I, addr (43_index_memory R150). -/
def execLdI (nnn : Addr12) (s : State) : StepOutcome := .next (s.setI (zextAddr nnn)).advance

/-- ADD I, Vx: modulo 2^16, no flag, no fault (43_index_memory R151) [log 17]. -/
def execAddI (x : Reg) (s : State) : StepOutcome := .next (s.setI (s.i + zextByte (s.getV x))).advance

/-- LD F, Vx (43_index_memory R152). -/
def execLdF (x : Reg) (s : State) : StepOutcome := .next (s.setI (glyphAddress (s.getV x))).advance

/-- LD B, Vx: three digits at I, I + 1, I + 2; I unchanged (43_index_memory R153). -/
def execLdB (x : Reg) (s : State) : StepOutcome :=
  attempt s <|
    match storeRange s s.i (bcdDigits (s.getV x)) with
    | .error f => .error f
    | .ok t => .ok t.advance

/-- LD [I], Vx: V0 to Vx at I on, then I <- I + x + 1 (43_index_memory R154). -/
def execLdMemVx (x : Reg) (s : State) : StepOutcome :=
  attempt s <|
    match storeRange s s.i (registerList s x) with
    | .error f => .error f
    | .ok t => .ok (t.bumpIndex x).advance

/-- LD Vx, [I]: V0 to Vx from I on, then I <- I + x + 1 (43_index_memory R155). -/
def execLdVxMem (x : Reg) (s : State) : StepOutcome :=
  attempt s <|
    match loadRange s s.i (blockLength x) with
    | .error f => .error f
    | .ok bs => .ok ((setRegisters s 0 bs).bumpIndex x).advance

end Sys2Proof.Machine
end

