-- ==== Sys2Proof/Machine/Keypad.lean ====
section
/-! DEFINITION. The keypad instructions, fault stubs of this core (46_keypad.md): each takes
UnsupportedWithoutInputCollaborator with its full opcode, which the encoder gives [log 21]. -/

namespace Sys2Proof.Machine

/-- SKP Vx (46_keypad R190). -/
def execSkp (x : Reg) (s : State) : StepOutcome := takeFault (.unsupportedWithoutInputCollaborator (encode (.skp x))) s

/-- SKNP Vx (46_keypad R191). -/
def execSknp (x : Reg) (s : State) : StepOutcome := takeFault (.unsupportedWithoutInputCollaborator (encode (.sknp x))) s

/-- LD Vx, K (46_keypad R192). -/
def execLdVxK (x : Reg) (s : State) : StepOutcome := takeFault (.unsupportedWithoutInputCollaborator (encode (.ldVxK x))) s

end Sys2Proof.Machine
end

