-- ==== Sys2Proof/Machine/TimersRandom.lean ====
section
/-! DEFINITION. Timer access and random-with-mask (45_timers_random.md). -/

namespace Sys2Proof.Machine

/-- LD Vx, DT (45_timers_random R180). -/
def execLdVxDt (x : Reg) (s : State) : StepOutcome := .next (s.setV x s.dt).advance

/-- LD DT, Vx (45_timers_random R181). -/
def execLdDtVx (x : Reg) (s : State) : StepOutcome := .next { s with dt := s.getV x }.advance

/-- LD ST, Vx (45_timers_random R182). -/
def execLdStVx (x : Reg) (s : State) : StepOutcome := .next { s with st := s.getV x }.advance

/-- The byte `rand` of this step: a FREE VALUE (00_scope R8) [log 3]. -/
def State.rand (s : State) : Byte := Config.freeRand s.draws

/-- RND Vx, byte: V[x] <- rand AND nn, one random byte consumed (45_timers_random R183). -/
def execRnd (x : Reg) (nn : Byte) (s : State) : StepOutcome :=
  .next { s.setV x (s.rand &&& nn) with draws := s.draws + 1 }.advance

end Sys2Proof.Machine
end

