-- ==== Sys2Proof/Machine/Step.lean ====
section
/-! DEFINITION. STEP, the one transition of the core (40_step.md). -/

namespace Sys2Proof.Machine

/-- STEP of 40_step R107, checking in the order of 60_exceptions R202: a latched core changes nothing (R100) [log 2];
else fetch (R101), decode (R102), execute (R103). -/
def step (s : State) : Host.Outcome State Fault Refusal :=
  match s.fault with
  | some _ => .next s
  | none =>
    match fetch s with
    | .error f => takeFault f s
    | .ok op =>
      match decode op with
      | .error _ => takeFault (.decodeFailure op) s
      | .ok i => exec i s

/-- `s` with the instruction whose bits are `w` (numbered as the opcode table numbers them) stored where `step` fetches
next, pc and pc + 1, and the latch clear, without which nothing is fetched. Where pc leaves no room for two bytes of
memory, nothing is stored [log 25]. -/
def State.withFetchWord (s : State) (nbits w : Nat) : State :=
  if s.pc.toNat + 1 < memorySize then
    { ((s.poke s.pc.toNat (highByte (tableWord nbits w))).poke (s.pc.toNat + 1) (lowByte (tableWord nbits w))) with fault := none }
  else s

end Sys2Proof.Machine
end

