-- ==== Sys2Proof/Machine/Transactions.lean ====
section
/-! DEFINITION. The five transactions of the block's interface (00_scope R7 to R16), as functions of the state, and runs
of them in any order (70_reset_and_hazards R234: the host's schedule is open) [log 14]. -/

namespace Sys2Proof.Machine

/-- What a transaction answers to the host. The spec gives a response to STEP (00_scope R7, R10), the state to READ_STATE
(R16) and a refusal to an oversize LOAD (R13); the rest is the model's choice [log 28]. -/
inductive Response where
  /-- A step retired (R10); and, the model's choice, a RESET, a LOAD or a TICK was done [log 28]. -/
  | ok
  /-- A step faulted, or the latch was set (R10). -/
  | fault (f : Fault)
  /-- The host interface refused an oversize LOAD; no core fault (R13). That the refusal is an answer is the model's choice
  [log 28]. -/
  | loadRefused
  /-- READ_STATE's answer: the whole state (R16), the model's own fields `params` and `draws` with it [log 28]. -/
  | state (s : State)
  deriving DecidableEq, Repr

/-- The response of the STEP that left the state `s`: FAULT(f) where the latch holds f, else OK (00_scope R10, 40_step
R100, R105, R106). -/
def State.response (s : State) : Response :=
  match s.fault with
  | none => .ok
  | some f => .fault f

/-- RESET: every element at its reset value, the latch clear; the parameters and the random source untouched
(70_reset_and_hazards R220, R223). -/
def State.doReset (s : State) : State := State.resetWith s.params s.draws

/-- The largest program image: 0x1000 - 0x200 bytes (00_scope R13). -/
def maxImage : Nat := 3584

/-- LOAD(bytes): mem[0x200 + k] <- bytes[k]; none where the image is too long and the host interface refuses it
(00_scope R13). -/
def State.load (s : State) (bytes : List Byte) : Option State :=
  if bytes.length > maxImage then none else some (s.pokeBytes 0x200 bytes)

/-- A timer after a TICK: one less, held at 0 (00_scope R15). -/
def tickTimer (t : Byte) : Byte := if t = 0 then 0 else t - 1

/-- TICK: each timer by itself (00_scope R15). -/
def State.tick (s : State) : State := { s with dt := tickTimer s.dt, st := tickTimer s.st }

/-- The transactions of 00_scope R7. -/
inductive Transaction where
  | step
  | reset
  | load (bytes : List Byte)
  | tick
  | readState
  deriving DecidableEq, Repr

/-- STEP as a transaction: the next state and the response. A step always answers a next state
(`Obligations.StepAlwaysAnswersNext`); an outcome that is none would leave the state as it is. -/
def State.doStep (s : State) : State :=
  match step s with
  | .next t => t
  | .fault _ => s
  | .refused _ => s

/-- The state a transaction leaves. -/
def State.after (s : State) : Transaction → State
  | .step => s.doStep
  | .reset => s.doReset
  | .load bytes => (s.load bytes).getD s
  | .tick => s.tick
  | .readState => s

/-- What a transaction answers. STEP and READ_STATE answer as 00_scope R10 and R16 say; the spec names no response of
RESET, LOAD or TICK, and what they answer here is the model's choice [log 28]. -/
def State.answer (s : State) : Transaction → Response
  | .step => s.doStep.response
  | .reset => .ok
  | .load bytes => if (s.load bytes).isSome then .ok else .loadRefused
  | .tick => .ok
  | .readState => .state s

/-- The state after a list of transactions, in order: each one is atomic and no two overlap (00_scope R7). -/
def State.run (s : State) : List Transaction → State
  | [] => s
  | t :: ts => State.run (s.after t) ts

end Sys2Proof.Machine
end

