-- ==== Sys2Proof/Safety.lean ====
section
/-! DEFINITION. What counts as a safe run, in the terms the statements use: the pieces of state and which of them an
instruction may write, which fault an instruction raises, the next pc, the invariant of reachable states, the end of a
run. -/

namespace Sys2Proof.Machine

/-! ## The pieces of state -/

/-- One piece of the state (10_state R38, R39), or of the model's own fields. -/
inductive Element where
  | v (r : Reg)
  | i
  | pc
  | stackEntry (k : Fin 16)
  | sp
  | cell (x : Fin 64) (y : Fin 32)
  | dt
  | st
  | byte (a : Nat)
  | fault
  | params
  | draws
  deriving DecidableEq, Repr

/-- The two states hold the same in the piece `e`; a byte of memory through the model's read of one byte. -/
def State.sameAt (s t : State) : Element → Prop
  | .v r => t.getV r = s.getV r
  | .i => t.i = s.i
  | .pc => t.pc = s.pc
  | .stackEntry k => t.stack[k] = s.stack[k]
  | .sp => t.sp = s.sp
  | .cell x y => Framebuffer.cell t.fb x y = Framebuffer.cell s.fb x y
  | .dt => t.dt = s.dt
  | .st => t.st = s.st
  | .byte a => t.peek a = s.peek a
  | .fault => t.fault = s.fault
  | .params => t.params = s.params
  | .draws => t.draws = s.draws

/-- From `s` to `t` nothing changed but pieces in `w`. -/
def State.changesOnly (s t : State) (w : Element → Prop) : Prop := ∀ e, ¬ w e → s.sameAt t e

/-! ## What an instruction may write, raise and jump to -/

/-- The set bits of the sprite of n rows at I, drawn at (Vx, Vy), reach the cell (u, w): bit 7 - c of byte r falls at
column (Vx + c) mod 64 and row (Vy + r) mod 32 (44_display R171, R172). -/
def State.spriteCovers (s : State) (x y : Reg) (n : Nat) (u : Fin 64) (w : Fin 32) : Prop :=
  ∃ r, r < n ∧ ∃ c, c < 8 ∧ (s.peek (indexAddress s r)).getLsbD (7 - c) = true ∧
    u.val = ((s.getV x).toNat + c) % 64 ∧ w.val = ((s.getV y).toNat + r) % 32

/-- The bytes of an access of n bytes through I (20_memory R59, 43_index_memory R156). -/
def State.inAccess (s : State) (n a : Nat) : Prop := indexAddress s 0 ≤ a ∧ a < indexAddress s n

/-- The pieces an instruction writes when it raises no fault, pc apart (10_state R21, R23, R24, R28, R32, R34; 20_memory
R59). -/
def writes : Instr → State → Element → Prop
  | .cls, _, e => ∃ u w, e = .cell u w
  | .ret, _, e => e = .sp
  | .jp _, _, _ => False
  | .call _, s, e => e = .sp ∨ ∃ k : Fin 16, e = .stackEntry k ∧ k.val = s.sp.val
  | .seImm _ _, _, _ => False
  | .sneImm _ _, _, _ => False
  | .seReg _ _, _, _ => False
  | .ldImm x _, _, e => e = .v x
  | .addImm x _, _, e => e = .v x
  | .ldReg x _, _, e => e = .v x
  | .or x _, _, e => e = .v x
  | .and x _, _, e => e = .v x
  | .xor x _, _, e => e = .v x
  | .addReg x _, _, e => e = .v x ∨ e = .v vf
  | .sub x _, _, e => e = .v x ∨ e = .v vf
  | .shr x _, _, e => e = .v x ∨ e = .v vf
  | .subn x _, _, e => e = .v x ∨ e = .v vf
  | .shl x _, _, e => e = .v x ∨ e = .v vf
  | .sneReg _ _, _, _ => False
  | .ldI _, _, e => e = .i
  | .jpV0 _, _, _ => False
  | .rnd x _, _, e => e = .v x ∨ e = .draws
  | .drw x y n, s, e => e = .v vf ∨ ∃ u w, e = .cell u w ∧ s.spriteCovers x y n.toNat u w
  | .skp _, _, _ => False
  | .sknp _, _, _ => False
  | .ldVxDt x, _, e => e = .v x
  | .ldVxK _, _, _ => False
  | .ldDtVx _, _, e => e = .dt
  | .ldStVx _, _, e => e = .st
  | .addI _, _, e => e = .i
  | .ldF _, _, e => e = .i
  | .ldB _, s, e => ∃ a, e = .byte a ∧ s.inAccess 3 a
  | .ldMemVx x, s, e => e = .i ∨ ∃ a, e = .byte a ∧ s.inAccess (blockLength x) a
  | .ldVxMem x, _, e => e = .i ∨ ∃ r : Reg, e = .v r ∧ r.toNat ≤ x.toNat

/-- An access of n bytes from I leaves memory (20_memory R53). -/
def State.leavesMemory (s : State) (n : Nat) : Bool := decide (n ≠ 0 ∧ s.i.toNat + n - 1 > 0xFFF)

/-- The fault an instruction raises in its own check, once fetched and decoded (60_exceptions R201). -/
def raises : Instr → State → Option Fault
  | .ret, s => if s.sp.val = 0 then some .stackUnderflow else none
  | .call _, s => if s.sp.val = 16 then some .stackOverflow else none
  | .drw _ _ n, s => if s.leavesMemory n.toNat then some (.memoryOutOfBounds (lowestOutside s.i)) else none
  | .ldB _, s => if s.leavesMemory 3 then some (.memoryOutOfBounds (lowestOutside s.i)) else none
  | .ldMemVx x, s => if s.leavesMemory (x.toNat + 1) then some (.memoryOutOfBounds (lowestOutside s.i)) else none
  | .ldVxMem x, s => if s.leavesMemory (x.toNat + 1) then some (.memoryOutOfBounds (lowestOutside s.i)) else none
  | .skp x, _ => some (.unsupportedWithoutInputCollaborator (encode (.skp x)))
  | .sknp x, _ => some (.unsupportedWithoutInputCollaborator (encode (.sknp x)))
  | .ldVxK x, _ => some (.unsupportedWithoutInputCollaborator (encode (.ldVxK x)))
  | .cls, _ | .jp _, _ | .seImm _ _, _ | .sneImm _ _, _ | .seReg _ _, _ | .ldImm _ _, _ | .addImm _ _, _ | .ldReg _ _, _
  | .or _ _, _ | .and _ _, _ | .xor _ _, _ | .addReg _ _, _ | .sub _ _, _ | .shr _ _, _ | .subn _ _, _ | .shl _ _, _
  | .sneReg _ _, _ | .ldI _, _ | .jpV0 _, _ | .rnd _ _, _ | .ldVxDt _, _ | .ldDtVx _, _ | .ldStVx _, _ | .addI _, _
  | .ldF _, _ => none

/-- pc' as a natural number where the instruction raises no fault (the table of 40_step R104). A popped value is read at
SP - 1. -/
def pcAfter : Instr → State → Nat
  | .jp nnn, _ => nnn.toNat
  | .call nnn, _ => nnn.toNat
  | .ret, s => (s.stack[s.sp.val - 1]'(by omega)).toNat + 2
  | .jpV0 nnn, s => (s.getV 0).toNat + nnn.toNat
  | .seImm x nn, s => if s.getV x = nn then s.pc.toNat + 4 else s.pc.toNat + 2
  | .sneImm x nn, s => if s.getV x = nn then s.pc.toNat + 2 else s.pc.toNat + 4
  | .seReg x y, s => if s.getV x = s.getV y then s.pc.toNat + 4 else s.pc.toNat + 2
  | .sneReg x y, s => if s.getV x = s.getV y then s.pc.toNat + 2 else s.pc.toNat + 4
  | .cls, s | .ldImm _ _, s | .addImm _ _, s | .ldReg _ _, s | .or _ _, s | .and _ _, s | .xor _ _, s | .addReg _ _, s
  | .sub _ _, s | .shr _ _, s | .subn _ _, s | .shl _ _, s | .ldI _, s | .rnd _ _, s | .drw _ _ _, s | .skp _, s
  | .sknp _, s | .ldVxDt _, s | .ldVxK _, s | .ldDtVx _, s | .ldStVx _, s | .addI _, s | .ldF _, s | .ldB _, s
  | .ldMemVx _, s | .ldVxMem _, s => s.pc.toNat + 2

/-! ## Invariants and the end of a run -/

/-- Memory is in its canonical form [log 6]. -/
def State.memWf (s : State) : Prop := Memory.wf s.params.fontData s.mem = true

/-- The invariant of reachable states: memory canonical; pc at most 0x10FE (10_state R27); every stack entry the address
of a CALL that was fetched, so at most 0xFFE (20_memory R55). SP ≤ 16 (10_state R29) is the type of SP. -/
structure State.Inv (s : State) : Prop where
  memWf : s.memWf
  pcBound : s.pc.toNat ≤ 0x10FE
  stackBound : ∀ k : Fin 16, s.stack[k].toNat ≤ 0xFFE

/-- The run stands at a self-loop, the convention for a program's end (40_step R108): a JP to its own address. -/
def State.atSelfLoop (s : State) : Prop :=
  ∃ nnn : Addr12, s.fault = none ∧ fetch s = .ok (encode (.jp nnn)) ∧ s.pc = zextAddr nnn

/-- A safe run of transactions: it ends with no fault latched. -/
def State.safeRun (s : State) (ts : List Transaction) : Prop := (s.run ts).fault = none

end Sys2Proof.Machine
end

