-- ==== Sys2Proof/Certificates/Slice0/Obligations.lean ====
section
/-! DEFINITION. The statements for the provers, each from a numbered rule or a section of spec/. In every statement pc + 2,
pc + 4 and a popped value + 2 are 16-bit sums, which differ from the spec's only in states no run reaches [log 18]. -/

open Sys2Proof Sys2Proof.Machine

/-! ## Encoding -/

/-- 30_encoding R73, R78, R80 (the opcode values are the spec's general knowledge, G1 [log 5]): decoding an encoded
well-formed instruction gives it back, as a word and as the first bytes of any list. -/
def Obligations.EncodeThenDecodeGivesTheInstruction : Prop :=
  ∀ i : Instr, i.wellFormed = true →
    decode (encode i) = .ok i ∧ ∀ rest, decodeBytes (encodeBytes i ++ rest) = .ok (i, rest)

/-- 30_encoding R77, R79 (decision D10 [log 13]; the opcode values are the spec's general knowledge, G1 [log 5]): a
word that decodes is the encoding of what it decodes to, but for bits 3:0 of 5XY_ and 9XY_, which are not examined. -/
def Obligations.DecodedWordIsItsInstructionsEncoding : Prop :=
  ∀ (op : Word) (i : Instr), decode op = .ok i →
    (op.toNat / 4096 ≠ 5 ∧ op.toNat / 4096 ≠ 9 → encode i = op) ∧
    (op.toNat / 4096 = 5 ∨ op.toNat / 4096 = 9 → (encode i).toNat = op.toNat / 16 * 16)

/-- 30_encoding R75, R76 (that 5XYn and 9XYn with n other than 0 are in none of them, and so decode, is decision D10
[log 13], and the sub-opcode values are the spec's general knowledge, G1 [log 5]): the words that decode to nothing
are exactly the four classes. -/
def Obligations.IllegalWordsAreTheFourClasses : Prop :=
  ∀ op : Word, (∃ r, decode op = .error r) ↔
    (op.toNat / 4096 = 0 ∧ op.toNat ≠ 0x00E0 ∧ op.toNat ≠ 0x00EE) ∨
    (op.toNat / 4096 = 8 ∧ op.toNat % 16 ∈ [0x8, 0x9, 0xA, 0xB, 0xC, 0xD, 0xF]) ∨
    (op.toNat / 4096 = 0xE ∧ op.toNat % 256 ∉ [0x9E, 0xA1]) ∨
    (op.toNat / 4096 = 0xF ∧ op.toNat % 256 ∉ [0x07, 0x0A, 0x15, 0x18, 0x1E, 0x29, 0x33, 0x55, 0x65])

/-- Words of 95_test_vectors and of the rules' examples, written out from the patterns of 30_encoding R80 (general
knowledge, G1 [log 5]), decode to the instruction they stand for. -/
def Obligations.SpecWordsDecodeAsWritten : Prop :=
  decode 0x00E0 = .ok .cls ∧ decode 0x00EE = .ok .ret ∧ decode 0x2210 = .ok (.call 0x210) ∧
  decode 0x7303 = .ok (.addImm 3 0x03) ∧ decode 0x812E = .ok (.shl 1 2) ∧ decode 0xD125 = .ok (.drw 1 2 5) ∧
  decode 0xE3A1 = .ok (.sknp 3) ∧ decode 0xF565 = .ok (.ldVxMem 5) ∧ decode 0xF418 = .ok (.ldStVx 4) ∧
  decode 0xC50F = .ok (.rnd 5 0x0F)

/-! ## The step and its faults -/

/-- 40_step R101 to R103 (that an odd pc is fetched like an even one is decision D11 [log 13], and the latch is the
spec's own, D13 [log 2]): where the latch is clear and the two bytes at pc decode to a well-formed instruction, a step
is that instruction's meaning, and nothing else (pc holds the instruction's own address, R101). -/
def Obligations.StepRunsTheDecodedInstruction : Prop :=
  ∀ (s : State) (i : Instr), s.fault = none → s.pc.toNat + 1 ≤ 0xFFF →
    decodeBytes [s.peek s.pc.toNat, s.peek (s.pc.toNat + 1)] = .ok (i, []) → i.wellFormed = true →
    step s = exec i s

/-- 60_exceptions R202 (latch and fault state are decision D13 [logs 1, 2], the payloads D6 [log 11], that DXY0 checks
nothing D7 [log 12], that an odd pc is no fault D11 [log 13], that a sum out of range is none either D15 and D16 [log
17], the keypad faults D17 [log 21]): a step checks the latch, the fetch bound, the decode and the instruction's own
check in this order, and its response is the first fault it finds, or OK where there is none. -/
def Obligations.StepReportsTheFirstFaultInOrder : Prop :=
  ∀ s : State,
    (∀ f, s.fault = some f → s.doStep.response = .fault f) ∧
    (s.fault = none → s.pc.toNat + 1 > 0xFFF → ∃ a, s.doStep.response = .fault (.memoryOutOfBounds a)) ∧
    (s.fault = none → s.pc.toNat + 1 ≤ 0xFFF → ∀ r,
      decode (bigEndian (s.peek s.pc.toNat) (s.peek (s.pc.toNat + 1))) = .error r →
      s.doStep.response = .fault (.decodeFailure (bigEndian (s.peek s.pc.toNat) (s.peek (s.pc.toNat + 1))))) ∧
    (s.fault = none → s.pc.toNat + 1 ≤ 0xFFF → ∀ i,
      decode (bigEndian (s.peek s.pc.toNat) (s.peek (s.pc.toNat + 1))) = .ok i →
      s.doStep.response = match raises i s with
        | some f => .fault f
        | none => .ok)

/-- 40_step R102: a fetched word that decodes to nothing raises DecodeFailure with the literal 16-bit opcode. -/
def Obligations.UndecodableWordReportsItsOpcode : Prop :=
  ∀ (s : State) (op : Word) (r : Reject), s.fault = none → fetch s = .ok op → decode op = .error r →
    ∃ t, step s = .next t ∧ t.response = .fault (.decodeFailure op)

/-- 20_memory R55 and 40_step R105: a fetch that leaves memory faults, and changes nothing but the latch. The payload
max(pc, 0x1000) is the spec's own choice (D12 [log 11]), and so is the state a fault leaves (D13 [log 1]). -/
def Obligations.FetchBeyondMemoryFaults : Prop :=
  ∀ s : State, s.fault = none → s.pc.toNat + 1 > 0xFFF →
    step s = .next { s with fault := some (.memoryOutOfBounds (BitVec.ofNat 16 (max s.pc.toNat 0x1000))) }

/-- 40_step R100 (the latch is the spec's own, D13 [log 2]): a step of a latched core changes no state, the count of
random bytes included, and returns the latched fault. -/
def Obligations.LatchedCoreIsQuiescent : Prop :=
  ∀ (s : State) (f : Fault), s.fault = some f → step s = .next s ∧ s.response = .fault f

/-- 40_step R105, R106 (the spec's own choice D13 [log 1]): a step that faults changes the latch alone; a step that
does not fault leaves the latch clear. -/
def Obligations.FaultingStepChangesTheLatchAlone : Prop :=
  ∀ s t : State, s.fault = none → step s = .next t →
    (∀ f, t.fault = some f → t = { s with fault := some f }) ∧ (t.response = .ok ↔ t.fault = none)

/-- 40_step R107, 30_encoding R73 (decoding is total): in every state a step answers a next state, whose fault, if
any, is in the latch (decision D13 [logs 1, 2]). -/
def Obligations.StepAlwaysAnswersNext : Prop := ∀ s : State, ∃ t, step s = .next t

/-- 60_exceptions R201 (the fault state is decision D13 [log 1], the payload of an access D6 [log 11], that the keypad
instructions always fault D17, their payload the encoder's word [logs 5, 21], that DXY0 checks nothing D7 [log 12],
that a sum of I or pc out of range raises nothing D15 and D16 [log 17], and that no address is protected D25 [log
22]): an instruction takes exactly the fault the table gives it, from the state before it, and otherwise completes
with the latch as it was. -/
def Obligations.InstructionsFaultExactlyByTheTable : Prop :=
  ∀ (i : Instr) (s : State),
    (∀ f, raises i s = some f → exec i s = .next { s with fault := some f }) ∧
    (raises i s = none → ∃ t, exec i s = .next t ∧ t.fault = s.fault)

/-- 10_state R37, 60_exceptions R205 (the latch is the spec's own, D13, D21 [log 2], and so are the transactions, D27
[log 14]): without a RESET no transaction clears the latch or runs an instruction. -/
def Obligations.OnlyResetClearsTheLatch : Prop :=
  ∀ (s : State) (f : Fault) (ts : List Transaction), s.fault = some f → (∀ t ∈ ts, t ≠ .reset) →
    ¬ s.safeRun ts ∧ (s.run ts).fault = some f ∧ (s.run ts).regs = s.regs ∧ (s.run ts).i = s.i ∧ (s.run ts).pc = s.pc ∧
      (s.run ts).stack = s.stack ∧ (s.run ts).sp = s.sp ∧ (s.run ts).fb = s.fb ∧ (s.run ts).draws = s.draws

/-- 40_step R104 (RET and the skips are the decisions D1 [log 7] and D2, the unmasked JP_V0 is D16 [log 17], a target
is not checked, D11 [log 13]; that DXY0 completes at any I is D7 [log 12], that ADD_I does where it wraps D15 [log
17], that a store to any address does D25 [log 22]; no 16-bit sum wraps under the invariant [log 18]): every
instruction that raises no fault completes with the pc' of the table, exactly, in every state that meets the
invariant. -/
def Obligations.EveryInstructionSetsPcByTheTable : Prop :=
  ∀ (i : Instr) (s : State), s.Inv → raises i s = none → ∃ t, exec i s = .next t ∧ t.pc.toNat = pcAfter i s

/-- 10_state R21, R23, R24, R28, R32, R34 and 20_memory R59: an instruction that raises no fault changes no piece of
state but pc and those the tables name for it. That ADD_IMM leaves VF is D5 [log 10], DRW's cells rest on the bit
order of D8 and, for DXY0, on D7 [log 12], that stack entries at SP and above keep their values, the one RET pops
included, is the model's [log 15], and that no store reaches the stack is D24 [log 22]. The parameters and the count
of draws are the model's own fields [logs 3, 4]. -/
def Obligations.EveryInstructionWritesOnlyItsPieces : Prop :=
  ∀ (i : Instr) (s t : State), raises i s = none → exec i s = .next t →
    s.changesOnly t fun e => writes i s e ∨ e = .pc

/-! ## Invariants -/

/-- 10_state R27 (pc at most 0x10FE, with the unmasked sum of JP_V0, D16 [log 17]), 20_memory R50 and R55,
41_control_flow R112: every step keeps the invariant. The canonical form of memory is the model's own representation
[log 6]; that a stack entry is at most 0xFFE rests on CALL pushing its own, fetched address, decision D1 and conflict
C2 [log 7], and, at SP and above, on entries keeping their values [log 15]; a step that faults keeps everything else,
D13 [log 1]. -/
def Obligations.StepKeepsTheInvariant : Prop :=
  ∀ s t : State, s.Inv → step s = .next t → t.Inv

/-- The state after reset, under any parameters, meets the invariant (10_state R39). The canonical form of memory is
the model's own [log 6], the bound on stack entries is the invariant's of D1 [log 7], and the parameters and the count
of draws are the model's own fields [logs 3, 4]. -/
def Obligations.ResetMeetsTheInvariant : Prop :=
  State.reset.Inv ∧ ∀ (p : Params) (d : Nat), (State.resetWith p d).Inv

/-- 70_reset_and_hazards R234 (the host's schedule is open, and the transactions are D19, D22 and D27 [log 14]): every
list of transactions, in any order, keeps the invariant. The canonical form of memory is the model's own [log 6]; the
bound on stack entries rests on CALL pushing its own address, 41_control_flow R112, decision D1 and conflict C2 [log
7], and, at SP and above, on entries keeping their values [log 15]; the bound on pc is that of D16 [log 17]. -/
def Obligations.EveryRunKeepsTheInvariant : Prop :=
  ∀ (s : State) (ts : List Transaction), s.Inv → (s.run ts).Inv

/-- 10_state R41, 70_reset_and_hazards R223 (RESET leaves them: decision D21; the transactions are D27 [log 14]): no
step and no transaction changes the parameters. Holding them in the state is the model's own [log 4]. -/
def Obligations.NothingChangesTheParameters : Prop :=
  ∀ (s : State) (ts : List Transaction), (s.run ts).params = s.params

/-- 20_memory R60, R62: a byte read after a write is the byte written, the font block included (decision D25 [log
22]), every other address reads as before, and canonical memories that read alike everywhere are equal data (the
canonical form, and a read beyond 0xFFF, are the model's own [log 6]). -/
def Obligations.MemoryReadsTheLatestWrite : Prop :=
  (∀ (s : State) (a c : Nat) (v : Byte), (s.poke a v).peek a = v ∧ (c ≠ a → (s.poke a v).peek c = s.peek c)) ∧
  (∀ (font : Vector Byte 80) (m m' : Memory), Memory.wf font m = true → Memory.wf font m' = true →
    (∀ a, Memory.read font m a = Memory.read font m' a) → m = m')

/-! ## Reset and the host's transactions -/

/-- 10_state R39, 70_reset_and_hazards R220 (the cleared latch is decision D21 [log 2], FONT_DATA is a parameter, D9,
held in the state [log 4], and that the read beyond 0xFFF gives 0 is the model's own [log 6]): RESET, from any state,
leaves every element at its reset value. -/
def Obligations.ResetLeavesTheResetValues : Prop :=
  ∀ s : State,
    (∀ r, s.doReset.getV r = 0) ∧ s.doReset.i = 0 ∧ s.doReset.pc = 0x200 ∧ (∀ k : Fin 16, s.doReset.stack[k] = 0) ∧
    s.doReset.sp = 0 ∧ (∀ x y, Framebuffer.cell s.doReset.fb x y = false) ∧ s.doReset.dt = 0 ∧ s.doReset.st = 0 ∧
    (∀ a : Fin 80, s.doReset.peek a.val = s.params.fontData[a]) ∧ (∀ a, 0x50 ≤ a → s.doReset.peek a = 0) ∧
    s.doReset.fault = none

/-- 70_reset_and_hazards R221: RESET is idempotent, and what it leaves depends only on FONT_DATA. -/
def Obligations.ResetIsIdempotent : Prop :=
  (∀ s : State, s.doReset.doReset = s.doReset) ∧
  (∀ s t : State, s.params.fontData = t.params.fontData → ∀ e, e ≠ .params → e ≠ .draws → s.doReset.sameAt t.doReset e)

/-- 00_scope R13 (the refusal of an oversize image is decision D22 [log 14], and the answer that says so is the
model's [log 28]): LOAD writes the bytes from 0x200 and no other state, and an image of more than 3584 bytes is
refused. -/
def Obligations.LoadPlacesTheImage : Prop :=
  ∀ (s : State) (bytes : List Byte),
    (3584 < bytes.length → s.answer (.load bytes) = .loadRefused ∧ s.after (.load bytes) = s) ∧
    (bytes.length ≤ 3584 → ∃ t, s.load bytes = some t ∧ s.after (.load bytes) = t ∧
      (∀ (k : Nat) (h : k < bytes.length), t.peek (0x200 + k) = bytes[k]) ∧
      s.changesOnly t fun e => ∃ a, e = .byte a ∧ 0x200 ≤ a ∧ a < 0x200 + bytes.length)

/-- 70_reset_and_hazards R225: after RESET and LOAD the first opcode is mem[0x200] * 256 + mem[0x201], the image
starting at its first byte, and an image of odd length leaves its last byte as the high byte of an opcode whose low
byte is 0. -/
def Obligations.FirstOpcodeIsTheImagesFirstWord : Prop :=
  ∀ (p : Params) (d : Nat) (bytes : List Byte) (h : 0 < bytes.length), bytes.length ≤ 3584 →
    ∃ t, (State.resetWith p d).load bytes = some t ∧ t.peek 0x200 = bytes[0] ∧
      (∃ op, fetch t = .ok op ∧ op.toNat = (t.peek 0x200).toNat * 256 + (t.peek 0x201).toNat) ∧
      (bytes.length % 2 = 1 → ∃ op, fetch (t.jumpTo (BitVec.ofNat 16 (0x200 + (bytes.length - 1)))) = .ok op ∧
        op.toNat = (bytes[bytes.length - 1]).toNat * 256)

/-- 00_scope R15 (the hold at 0 is general knowledge, decision D19 [log 14]): TICK takes 1 from each timer that is not
0, each by itself, and changes nothing else. -/
def Obligations.TickCountsEachTimerDown : Prop :=
  ∀ s : State, s.tick.dt.toNat = s.dt.toNat - 1 ∧ s.tick.st.toNat = s.st.toNat - 1 ∧
    s.changesOnly s.tick fun e => e = .dt ∨ e = .st

/-! ## Control flow -/

/-- 41_control_flow R111, R117 (the unmasked sum is decision D16 [log 17], and an odd target is no fault, D11 [log
13]): JP gives pc' = nnn, JP V0 gives V0 + nnn without truncation to 12 bits, and neither changes anything else. -/
def Obligations.JumpsSetPcAlone : Prop :=
  ∀ (s : State) (nnn : Addr12),
    (∃ t, exec (.jp nnn) s = .next t ∧ t.pc.toNat = nnn.toNat ∧ s.changesOnly t (· = .pc)) ∧
    (∃ t, exec (.jpV0 nnn) s = .next t ∧ t.pc.toNat = (s.getV 0).toNat + nnn.toNat ∧ s.changesOnly t (· = .pc))

/-- 41_control_flow R112 (that the entry pushed is the CALL's own address is decision D1, conflict C2 [log 7], that
the entries above it keep their values is the model's [log 15], and an odd target is no fault, D11 [log 13]): a CALL
with room on the stack pushes its own address and goes to nnn; no other entry and nothing else changes. -/
def Obligations.CallPushesItsOwnAddress : Prop :=
  ∀ (s : State) (nnn : Addr12) (h : s.sp.val < 16),
    ∃ t, exec (.call nnn) s = .next t ∧ t.stack[s.sp.val] = s.pc ∧ t.sp.val = s.sp.val + 1 ∧ t.pc.toNat = nnn.toNat ∧
      s.changesOnly t fun e => e = .pc ∨ e = .sp ∨ e = .stackEntry ⟨s.sp.val, h⟩

/-- 41_control_flow R110 (the pc after RET is decision D1, conflict C2 [log 7], and that the popped entry and those
above it keep their values is the model's [log 15]): a RET with an entry on the stack pops it and resumes 2 bytes
after it; the entries stay and nothing else changes. -/
def Obligations.ReturnResumesAfterThePoppedCall : Prop :=
  ∀ (s : State) (_ : 0 < s.sp.val),
    ∃ t, exec .ret s = .next t ∧ t.sp.val = s.sp.val - 1 ∧ t.pc = s.stack[s.sp.val - 1] + 2 ∧
      s.changesOnly t fun e => e = .pc ∨ e = .sp

/-- 41_control_flow R110, R112 (the state a fault leaves is decision D13 [log 1]): CALL on a full stack and RET on an
empty one fault, and change the latch alone. -/
def Obligations.StackLimitsFault : Prop :=
  ∀ (s : State) (nnn : Addr12),
    (s.sp.val = 16 → exec (.call nnn) s = .next { s with fault := some .stackOverflow }) ∧
    (s.sp.val = 0 → exec .ret s = .next { s with fault := some .stackUnderflow })

/-- 10_state R30 (that the entries above S[SP] keep their values is the model's [log 15]): Push raises StackOverflow
where SP = 16, and otherwise sets S[SP] and adds 1 to SP. -/
def Obligations.PushFillsTheNextEntryOrOverflows : Prop :=
  ∀ (s : State) (v : Word),
    (s.sp.val = 16 → push s v = .error .stackOverflow) ∧
    (∀ h : s.sp.val < 16, ∃ t, push s v = .ok t ∧ t.stack[s.sp.val] = v ∧ t.sp.val = s.sp.val + 1 ∧
      s.changesOnly t fun e => e = .sp ∨ e = .stackEntry ⟨s.sp.val, h⟩)

/-- 41_control_flow R110, R112, 95 W3 (decision D1, conflict C2 [log 7]): a RET right after a CALL resumes behind the
CALL with the stack depth as before it, wherever the subroutine's jumps and register writes have left the rest. -/
def Obligations.CallThenReturnResumesBehindTheCall : Prop :=
  ∀ (s : State) (nnn : Addr12), s.sp.val < 16 →
    ∃ t, exec (.call nnn) s = .next t ∧
      ∀ (pc' : Word) (regs' : Vector Byte 16), ∃ u, exec .ret { t with pc := pc', regs := regs' } = .next u ∧
        u.pc = s.pc + 2 ∧ u.sp = s.sp

/-- 41_control_flow R113 to R116 (the net effect is decision D2; 5XY_ and 9XY_ are D10 [log 13]): a skip goes to pc +
4 where its condition holds and to pc + 2 where it does not, and changes nothing else. -/
def Obligations.SkipsAdvanceByTwoOrFour : Prop :=
  ∀ (s : State) (x y : Reg) (nn : Byte),
    (∃ t, exec (.seImm x nn) s = .next t ∧ s.changesOnly t (· = .pc) ∧
      (s.getV x = nn → t.pc = s.pc + 4) ∧ (s.getV x ≠ nn → t.pc = s.pc + 2)) ∧
    (∃ t, exec (.sneImm x nn) s = .next t ∧ s.changesOnly t (· = .pc) ∧
      (s.getV x ≠ nn → t.pc = s.pc + 4) ∧ (s.getV x = nn → t.pc = s.pc + 2)) ∧
    (∃ t, exec (.seReg x y) s = .next t ∧ s.changesOnly t (· = .pc) ∧
      (s.getV x = s.getV y → t.pc = s.pc + 4) ∧ (s.getV x ≠ s.getV y → t.pc = s.pc + 2)) ∧
    (∃ t, exec (.sneReg x y) s = .next t ∧ s.changesOnly t (· = .pc) ∧
      (s.getV x ≠ s.getV y → t.pc = s.pc + 4) ∧ (s.getV x = s.getV y → t.pc = s.pc + 2))

/-- 40_step R108: at a self-loop, the spec's own convention for a program's end (D26 [log 23]; JP's opcode is general
knowledge, G1 [log 5], and an odd pc is fetched too, D11 [log 13]), a step leaves the state unchanged. -/
def Obligations.SelfLoopLeavesTheStateUnchanged : Prop := ∀ s : State, s.atSelfLoop → step s = .next s

/-! ## Register load and ALU -/

/-- 42_register_alu R132, R134 to R137: LD_IMM, LD_REG, OR, AND and XOR write their result to Vx, advance pc by 2 and
change nothing else: VF only where x names it. -/
def Obligations.LoadsAndBitwiseOpsWriteVxAlone : Prop :=
  ∀ (s : State) (x y : Reg) (nn : Byte),
    (∃ t, exec (.ldImm x nn) s = .next t ∧ t.getV x = nn ∧ t.pc = s.pc + 2 ∧
      s.changesOnly t fun e => e = .v x ∨ e = .pc) ∧
    (∃ t, exec (.ldReg x y) s = .next t ∧ t.getV x = s.getV y ∧ t.pc = s.pc + 2 ∧
      s.changesOnly t fun e => e = .v x ∨ e = .pc) ∧
    (∃ t, exec (.or x y) s = .next t ∧ t.getV x = s.getV x ||| s.getV y ∧ t.pc = s.pc + 2 ∧
      s.changesOnly t fun e => e = .v x ∨ e = .pc) ∧
    (∃ t, exec (.and x y) s = .next t ∧ t.getV x = s.getV x &&& s.getV y ∧ t.pc = s.pc + 2 ∧
      s.changesOnly t fun e => e = .v x ∨ e = .pc) ∧
    (∃ t, exec (.xor x y) s = .next t ∧ t.getV x = s.getV x ^^^ s.getV y ∧ t.pc = s.pc + 2 ∧
      s.changesOnly t fun e => e = .v x ∨ e = .pc)

/-- 42_register_alu R133 (that no carry is written is decision D5 [log 10]): ADD_IMM adds modulo 256 into Vx, advances
pc by 2 and changes nothing else, VF included. -/
def Obligations.AddImmediateWrapsWithoutAFlag : Prop :=
  ∀ (s : State) (x : Reg) (nn : Byte),
    ∃ t, exec (.addImm x nn) s = .next t ∧ (t.getV x).toNat = ((s.getV x).toNat + nn.toNat) % 256 ∧ t.pc = s.pc + 2 ∧
      s.changesOnly t fun e => e = .v x ∨ e = .pc

/-- 42_register_alu R138, R143: ADD_REG gives V[x] + 256 * VF = vx + vy where x is not 15; where it is, VF ends as the
carry (the write order is the spec's own choice, D4 [log 9]). pc advances by 2, nothing else changes. -/
def Obligations.AddRegGivesSumAndCarry : Prop :=
  ∀ (s : State) (x y : Reg),
    ∃ t, exec (.addReg x y) s = .next t ∧ t.pc = s.pc + 2 ∧
      (t.getV vf).toNat = (if (s.getV x).toNat + (s.getV y).toNat > 0xFF then 1 else 0) ∧
      (x ≠ vf → (t.getV x).toNat + 256 * (t.getV vf).toNat = (s.getV x).toNat + (s.getV y).toNat) ∧
      s.changesOnly t fun e => e = .v x ∨ e = .v vf ∨ e = .pc

/-- 42_register_alu R139, R141, R143: SUB and SUBN give the difference modulo 256 in Vx where x is not 15, and VF = 1
exactly where no borrow occurs; where x is 15 VF ends as the flag (D4 [log 9]). pc advances by 2, nothing else
changes. -/
def Obligations.SubtractsGiveDifferenceAndNoBorrow : Prop :=
  ∀ (s : State) (x y : Reg),
    (∃ t, exec (.sub x y) s = .next t ∧ t.pc = s.pc + 2 ∧
      (t.getV vf).toNat = (if (s.getV x).toNat ≥ (s.getV y).toNat then 1 else 0) ∧
      (x ≠ vf → (t.getV x).toNat + (s.getV y).toNat = (s.getV x).toNat + 256 * (1 - (t.getV vf).toNat)) ∧
      s.changesOnly t fun e => e = .v x ∨ e = .v vf ∨ e = .pc) ∧
    (∃ t, exec (.subn x y) s = .next t ∧ t.pc = s.pc + 2 ∧
      (t.getV vf).toNat = (if (s.getV y).toNat ≥ (s.getV x).toNat then 1 else 0) ∧
      (x ≠ vf → (t.getV x).toNat + (s.getV x).toNat = (s.getV y).toNat + 256 * (1 - (t.getV vf).toNat)) ∧
      s.changesOnly t fun e => e = .v x ∨ e = .v vf ∨ e = .pc)

/-- 42_register_alu R140, R142, R144, for both values of SHIFT_BY_ONE (the whole-byte amount and the flag for amounts
other than 1 are decision D3 [log 8], the write order D4 [log 9]): SHR divides Vx by 2^k and SHL multiplies it modulo
256, so amounts of 8 or more give 0; VF is the original bit 0 or bit 7. pc advances by 2, nothing else changes. -/
def Obligations.ShiftsMoveByVyOrByOne : Prop :=
  ∀ (s : State) (x y : Reg) (k : Nat), k = (if s.params.shiftByOne = true then 1 else (s.getV y).toNat) →
    (∃ t, exec (.shr x y) s = .next t ∧ t.pc = s.pc + 2 ∧ (t.getV vf).toNat = (s.getV x).toNat % 2 ∧
      (x ≠ vf → (t.getV x).toNat = (s.getV x).toNat / 2 ^ k) ∧
      s.changesOnly t fun e => e = .v x ∨ e = .v vf ∨ e = .pc) ∧
    (∃ t, exec (.shl x y) s = .next t ∧ t.pc = s.pc + 2 ∧ (t.getV vf).toNat = (s.getV x).toNat / 128 ∧
      (x ≠ vf → (t.getV x).toNat = (s.getV x).toNat * 2 ^ k % 256) ∧
      s.changesOnly t fun e => e = .v x ∨ e = .v vf ∨ e = .pc)

/-! ## Index register and memory -/

/-- 43_index_memory R150 to R152 (the wrap of ADD_I is decision D15 [log 17], FONT_BASE = 0 is D9 [log 4]): LD_I,
ADD_I and LD_F set I, advance pc by 2 and change nothing else. -/
def Obligations.IndexInstructionsSetIAlone : Prop :=
  ∀ (s : State) (x : Reg) (nnn : Addr12),
    (∃ t, exec (.ldI nnn) s = .next t ∧ t.i.toNat = nnn.toNat ∧ t.pc = s.pc + 2 ∧
      s.changesOnly t fun e => e = .i ∨ e = .pc) ∧
    (∃ t, exec (.addI x) s = .next t ∧ t.i.toNat = (s.i.toNat + (s.getV x).toNat) % 65536 ∧ t.pc = s.pc + 2 ∧
      s.changesOnly t fun e => e = .i ∨ e = .pc) ∧
    (∃ t, exec (.ldF x) s = .next t ∧ t.i.toNat = (s.getV x).toNat % 16 * 5 ∧ t.pc = s.pc + 2 ∧
      s.changesOnly t fun e => e = .i ∨ e = .pc)

/-- 43_index_memory R153 (that no address is protected is decision D25 [log 22]): LD_B with its three bytes inside
memory stores the decimal digits of Vx at I, I + 1 and I + 2, advances pc by 2, and changes no other byte and nothing
else. -/
def Obligations.BcdStoresThreeDigits : Prop :=
  ∀ (s : State) (x : Reg), s.i.toNat + 2 ≤ 0xFFF →
    ∃ t, exec (.ldB x) s = .next t ∧ t.pc = s.pc + 2 ∧
      (s.getV x).toNat = 100 * (t.peek (indexAddress s 0)).toNat + 10 * (t.peek (indexAddress s 1)).toNat +
        (t.peek (indexAddress s 2)).toNat ∧
      (t.peek (indexAddress s 0)).toNat ≤ 2 ∧ (t.peek (indexAddress s 1)).toNat ≤ 9 ∧ (t.peek (indexAddress s 2)).toNat ≤ 9 ∧
      s.changesOnly t fun e => e = .pc ∨ ∃ a, e = .byte a ∧ indexAddress s 0 ≤ a ∧ a < indexAddress s 3

/-- 43_index_memory R154 (that no address is protected is decision D25 [log 22]): LD_MEM_VX with its x + 1 bytes
inside memory stores V0 to Vx at I on, adds x + 1 to I, advances pc by 2, and changes no other byte and nothing else.
-/
def Obligations.StoreRegistersWritesXPlusOneBytes : Prop :=
  ∀ (s : State) (x : Reg), s.i.toNat + x.toNat ≤ 0xFFF →
    ∃ t, exec (.ldMemVx x) s = .next t ∧ t.pc = s.pc + 2 ∧ t.i.toNat = s.i.toNat + x.toNat + 1 ∧
      (∀ r : Reg, r.toNat ≤ x.toNat → t.peek (indexAddress s r.toNat) = s.getV r) ∧
      s.changesOnly t fun e => e = .pc ∨ e = .i ∨
        ∃ a, e = .byte a ∧ indexAddress s 0 ≤ a ∧ a < indexAddress s (x.toNat + 1)

/-- 43_index_memory R155: LD_VX_MEM with its x + 1 bytes inside memory loads V0 to Vx from I on, adds x + 1 to I,
advances pc by 2, and changes no other register, no byte and nothing else. -/
def Obligations.LoadRegistersReadsXPlusOneBytes : Prop :=
  ∀ (s : State) (x : Reg), s.i.toNat + x.toNat ≤ 0xFFF →
    ∃ t, exec (.ldVxMem x) s = .next t ∧ t.pc = s.pc + 2 ∧ t.i.toNat = s.i.toNat + x.toNat + 1 ∧
      (∀ r : Reg, r.toNat ≤ x.toNat → t.getV r = s.peek (indexAddress s r.toNat)) ∧
      s.changesOnly t fun e => e = .pc ∨ e = .i ∨ ∃ r : Reg, e = .v r ∧ r.toNat ≤ x.toNat

/-- 20_memory R53, R54, 43_index_memory R153 to R155, 44_display R171 (fault and payload are the spec's own choice,
D6, and the state it leaves D13 [logs 1, 11]): an access through I that crosses 0xFFF faults as a whole and changes
the latch alone. -/
def Obligations.AccessAcrossTheEndFaultsWhole : Prop :=
  ∀ (s : State) (x y : Reg) (n : BitVec 4) (f : Fault),
    f = .memoryOutOfBounds (BitVec.ofNat 16 (max s.i.toNat 0x1000)) →
    (s.i.toNat + 2 > 0xFFF → exec (.ldB x) s = .next { s with fault := some f }) ∧
    (s.i.toNat + x.toNat > 0xFFF → exec (.ldMemVx x) s = .next { s with fault := some f } ∧
      exec (.ldVxMem x) s = .next { s with fault := some f }) ∧
    (0 < n.toNat → s.i.toNat + n.toNat - 1 > 0xFFF → exec (.drw x y n) s = .next { s with fault := some f })

/-- 43_index_memory R154, R155, 95 W6 (conflict C7; that no address is protected is decision D25 [log 22]): a store of
V0 to Vx followed, with I set back, by a load of V0 to Vx gives the registers stored, whatever the register file holds
in between. -/
def Obligations.LoadRegistersUndoesStoreRegisters : Prop :=
  ∀ (s : State) (x : Reg) (regs' : Vector Byte 16), s.i.toNat + x.toNat ≤ 0xFFF →
    ∃ t u, exec (.ldMemVx x) s = .next t ∧ exec (.ldVxMem x) { t with i := s.i, regs := regs' } = .next u ∧
      u.i = t.i ∧ ∀ r : Reg, r.toNat ≤ x.toNat → u.getV r = s.getV r

/-- 20_memory R57, R63, 70_reset_and_hazards R231 (that no address is protected is decision D25 [log 22], and that an
odd pc is fetched D11 [log 13]): where LD_MEM_VX stores V0 and V1 over the instruction right after it, the very next
fetch reads them, V0 as the high byte and V1 as the low byte. -/
def Obligations.StoredWordIsFetchedNext : Prop :=
  ∀ (s : State) (x : Reg), 1 ≤ x.toNat → s.i.toNat = s.pc.toNat + 2 → s.i.toNat + x.toNat ≤ 0xFFF →
    ∃ t op, exec (.ldMemVx x) s = .next t ∧ fetch t = .ok op ∧ op.toNat = (s.getV 0).toNat * 256 + (s.getV 1).toNat

/-! ## Framebuffer -/

/-- 44_display R170: 00E0 is CLS, which clears every cell, advances pc by 2 and touches nothing else. -/
def Obligations.ClearScreenClearsEveryCell : Prop :=
  decode 0x00E0 = .ok .cls ∧
  ∀ s : State, ∃ t, exec .cls s = .next t ∧ (∀ u w, Framebuffer.cell t.fb u w = false) ∧ t.pc = s.pc + 2 ∧
    s.changesOnly t fun e => e = .pc ∨ ∃ u w, e = .cell u w

/-- 44_display R171 to R173, 10_state R33 (bit order, n = 0 and VF's order are the spec's own choice, D7, D8, D4 [logs
9, 12]): DRW with its rows inside memory flips exactly the cells its set bits reach, with wraparound on both axes,
sets VF to 1 exactly where it clears a set cell, advances pc by 2 and changes nothing else. -/
def Obligations.DrawXorsTheSpriteWithCollision : Prop :=
  ∀ (s : State) (x y : Reg) (n : BitVec 4), n.toNat = 0 ∨ s.i.toNat + n.toNat - 1 ≤ 0xFFF →
    ∃ t, exec (.drw x y n) s = .next t ∧ t.pc = s.pc + 2 ∧
      (∀ u w, s.spriteCovers x y n.toNat u w → Framebuffer.cell t.fb u w = !Framebuffer.cell s.fb u w) ∧
      ((∃ u w, s.spriteCovers x y n.toNat u w ∧ Framebuffer.cell s.fb u w = true) → t.getV vf = 1) ∧
      ((∀ u w, s.spriteCovers x y n.toNat u w → Framebuffer.cell s.fb u w = false) → t.getV vf = 0) ∧
      s.changesOnly t fun e => e = .pc ∨ e = .v vf ∨ ∃ u w, e = .cell u w ∧ s.spriteCovers x y n.toNat u w

/-- 44_display R171, R173 (95 P3; that DXY0 checks nothing and completes at any I is decision D7 [log 12]): the same
sprite drawn twice at the same place, from coordinates not held in VF, restores the framebuffer. -/
def Obligations.DrawingTwiceRestoresTheFramebuffer : Prop :=
  ∀ (s : State) (x y : Reg) (n : BitVec 4), x ≠ vf → y ≠ vf → n.toNat = 0 ∨ s.i.toNat + n.toNat - 1 ≤ 0xFFF →
    ∃ t u, exec (.drw x y n) s = .next t ∧ exec (.drw x y n) t = .next u ∧ u.fb = s.fb

/-! ## Timers, random, keypad -/

/-- 45_timers_random R180 to R182: LD_VX_DT copies DT to Vx, LD_DT_VX copies Vx to DT, LD_ST_VX copies Vx to ST; each
advances pc by 2 and changes nothing else. -/
def Obligations.TimerInstructionsCopyTheCurrentValue : Prop :=
  ∀ (s : State) (x : Reg),
    (∃ t, exec (.ldVxDt x) s = .next t ∧ t.getV x = s.dt ∧ t.pc = s.pc + 2 ∧
      s.changesOnly t fun e => e = .v x ∨ e = .pc) ∧
    (∃ t, exec (.ldDtVx x) s = .next t ∧ t.dt = s.getV x ∧ t.pc = s.pc + 2 ∧
      s.changesOnly t fun e => e = .dt ∨ e = .pc) ∧
    (∃ t, exec (.ldStVx x) s = .next t ∧ t.st = s.getV x ∧ t.pc = s.pc + 2 ∧
      s.changesOnly t fun e => e = .st ∨ e = .pc)

/-- 45_timers_random R183, 00_scope R8 (the byte is a free value, D18 [log 3]): RND writes the masked byte to Vx,
consumes exactly one random byte, advances pc by 2 and changes nothing else; a mask of 0 gives 0 and a mask of 0xFF
the byte itself, whatever it is. -/
def Obligations.RandomByteIsMaskedAndConsumedOnce : Prop :=
  ∀ (s : State) (x : Reg) (nn : Byte),
    ∃ t, exec (.rnd x nn) s = .next t ∧ t.getV x = Config.freeRand s.draws &&& nn ∧ t.draws = s.draws + 1 ∧
      t.pc = s.pc + 2 ∧ (nn = 0 → t.getV x = 0) ∧ (nn = 0xFF → t.getV x = Config.freeRand s.draws) ∧
      s.changesOnly t fun e => e = .v x ∨ e = .draws ∨ e = .pc

/-- 40_step R106, 10_state R34 (that a step that faults or is latched changes neither is decision D13 [logs 1, 2]): a
step changes DT only where it runs LD_DT_VX, and ST only where it runs LD_ST_VX; it never decrements a timer. -/
def Obligations.StepNeverCountsATimerDown : Prop :=
  ∀ s t : State, step s = .next t →
    ((∀ op x, fetch s = .ok op → decode op ≠ .ok (.ldDtVx x)) → t.dt = s.dt) ∧
    ((∀ op x, fetch s = .ok op → decode op ≠ .ok (.ldStVx x)) → t.st = s.st)

/-- 46_keypad R190 to R192 (decision D17 [log 21]; the opcodes are general knowledge, G1 [log 5]; the state a fault
leaves is D13 [log 1]): SKP, SKNP and LD_VX_K fault on every execution with their full opcode, and change the latch
alone. -/
def Obligations.KeypadInstructionsAlwaysFault : Prop :=
  ∀ (s : State) (x : Reg),
    exec (.skp x) s =
      .next { s with fault := some (.unsupportedWithoutInputCollaborator (BitVec.ofNat 16 (0xE09E + 256 * x.toNat))) } ∧
    exec (.sknp x) s =
      .next { s with fault := some (.unsupportedWithoutInputCollaborator (BitVec.ofNat 16 (0xE0A1 + 256 * x.toNat))) } ∧
    exec (.ldVxK x) s =
      .next { s with fault := some (.unsupportedWithoutInputCollaborator (BitVec.ofNat 16 (0xF00A + 256 * x.toNat))) }

/-! ## What an instruction cannot read -/

/-- 10_state R28 (that the stack is separate storage is decision D24 [log 22]; a fault is a next state, D13 [log 1],
and both runs see the same random byte, D18 [log 3]): no instruction other than CALL and RET reads or writes the
stack: with any other stack it does the same to the rest of the state. -/
def Obligations.OnlyCallAndReturnTouchTheStack : Prop :=
  ∀ (i : Instr) (s : State) (stack' : Vector Word 16) (sp' : Fin 17), (∀ nnn, i ≠ .call nnn) → i ≠ .ret →
    ∃ t, exec i s = .next t ∧ t.stack = s.stack ∧ t.sp = s.sp ∧
      exec i { s with stack := stack', sp := sp' } = .next { t with stack := stack', sp := sp' }

/-- 10_state R34 (conflict C12; a fault is a next state, D13 [log 1], and both runs see the same random byte, D18 [log
3]): no instruction reads ST. -/
def Obligations.NoInstructionReadsTheSoundTimer : Prop :=
  ∀ (i : Instr) (s : State) (st' : Byte),
    ∃ t, exec i s = .next t ∧
      ((∀ x, i ≠ .ldStVx x) → exec i { s with st := st' } = .next { t with st := st' }) ∧
      ((∃ x, i = .ldStVx x) → exec i { s with st := st' } = .next t)

/-- 10_state R34 (a fault is a next state, D13 [log 1], and both runs see the same random byte, D18 [log 3]): only
LD_VX_DT reads DT. -/
def Obligations.OnlyLoadTimerReadsTheDelayTimer : Prop :=
  ∀ (i : Instr) (s : State) (dt' : Byte), (∀ x, i ≠ .ldVxDt x) →
    ∃ t, exec i s = .next t ∧
      ((∀ x, i ≠ .ldDtVx x) → exec i { s with dt := dt' } = .next { t with dt := dt' }) ∧
      ((∃ x, i = .ldDtVx x) → exec i { s with dt := dt' } = .next t)

/-- 10_state R32 (a fault is a next state, D13 [log 1], and both runs see the same random byte, D18 [log 3]): only CLS
and DRW write the framebuffer and only DRW reads it. -/
def Obligations.OnlyDrawReadsTheFramebuffer : Prop :=
  ∀ (i : Instr) (s : State) (fb' : Framebuffer), (∀ x y n, i ≠ .drw x y n) →
    ∃ t, exec i s = .next t ∧
      (i ≠ .cls → t.fb = s.fb ∧ exec i { s with fb := fb' } = .next { t with fb := fb' }) ∧
      (i = .cls → exec i { s with fb := fb' } = .next t)

/-- 00_scope R8, 40_step R106 (the random source as a free value is D18 [log 3], and a fault is a next state, D13 [log
1]): only RND reads or consumes a random byte. -/
def Obligations.OnlyRndReadsTheRandomSource : Prop :=
  ∀ (i : Instr) (s : State) (draws' : Nat), (∀ x nn, i ≠ .rnd x nn) →
    ∃ t, exec i s = .next t ∧ t.draws = s.draws ∧
      exec i { s with draws := draws' } = .next { t with draws := draws' }
end

