-- ==== Sys2Proof/Laws/Encoding.lean ====
section
/-! SUPPORT. The fields of a word built from fields (30_encoding R70, R72), and the bytes of a word. -/

namespace Sys2Proof

/-- The low part of two fields put together. -/
theorem extract_append_low {m n : Nat} (a : BitVec m) (b : BitVec n) (w : Nat) (h : w ≤ n) :
    (a ++ b).extractLsb' 0 w = b.extractLsb' 0 w := by
  ext k hk
  simp [BitVec.getLsbD_append, show k < n by omega]

/-- A part of the high field of two fields put together. -/
theorem extract_append_high {m n : Nat} (a : BitVec m) (b : BitVec n) (i w : Nat) (h : n ≤ i) :
    (a ++ b).extractLsb' i w = a.extractLsb' (i - n) w := by
  ext k hk
  simp [BitVec.getLsbD_append, show ¬ i + k < n by omega, show i + k - n = i - n + k by omega]

/-- A part of the low field of two fields put together. -/
theorem extract_append_mid {m n : Nat} (a : BitVec m) (b : BitVec n) (i w : Nat) (h : i + w ≤ n) :
    (a ++ b).extractLsb' i w = b.extractLsb' i w := by
  ext k hk
  simp [BitVec.getLsbD_append, show i + k < n by omega]

/-- All of a field. -/
theorem extract_all {n : Nat} (a : BitVec n) : a.extractLsb' 0 n = a := by
  ext k hk; simp

@[simp] theorem fieldH_formatNNN (h : BitVec 4) (a : Addr12) : fieldH (formatNNN h a) = h := by
  rw [fieldH, formatNNN, extract_append_high _ _ 12 4 (by omega)]; exact extract_all h

@[simp] theorem fieldNNN_formatNNN (h : BitVec 4) (a : Addr12) : fieldNNN (formatNNN h a) = a := by
  rw [fieldNNN, formatNNN, extract_append_mid _ _ 0 12 (by omega)]; exact extract_all a

@[simp] theorem fieldH_formatXNN (h : BitVec 4) (x : Reg) (k : Byte) : fieldH (formatXNN h x k) = h := by
  rw [fieldH, formatXNN, extract_append_high _ _ 12 4 (by omega), extract_append_high _ _ _ 4 (by omega)]; exact extract_all h

@[simp] theorem fieldX_formatXNN (h : BitVec 4) (x : Reg) (k : Byte) : fieldX (formatXNN h x k) = x := by
  rw [fieldX, formatXNN, extract_append_high _ _ 8 4 (by omega), extract_append_mid _ _ _ 4 (by omega)]; exact extract_all x

@[simp] theorem fieldNN_formatXNN (h : BitVec 4) (x : Reg) (k : Byte) : fieldNN (formatXNN h x k) = k := by
  rw [fieldNN, formatXNN, extract_append_mid _ _ 0 8 (by omega)]; exact extract_all k

@[simp] theorem fieldH_formatXYN (h : BitVec 4) (x y : Reg) (n : BitVec 4) : fieldH (formatXYN h x y n) = h := by
  rw [fieldH, formatXYN, extract_append_high _ _ 12 4 (by omega), extract_append_high _ _ _ 4 (by omega),
    extract_append_high _ _ _ 4 (by omega)]; exact extract_all h

@[simp] theorem fieldX_formatXYN (h : BitVec 4) (x y : Reg) (n : BitVec 4) : fieldX (formatXYN h x y n) = x := by
  rw [fieldX, formatXYN, extract_append_high _ _ 8 4 (by omega), extract_append_high _ _ _ 4 (by omega),
    extract_append_mid _ _ _ 4 (by omega)]; exact extract_all x

@[simp] theorem fieldY_formatXYN (h : BitVec 4) (x y : Reg) (n : BitVec 4) : fieldY (formatXYN h x y n) = y := by
  rw [fieldY, formatXYN, extract_append_high _ _ 4 4 (by omega), extract_append_mid _ _ _ 4 (by omega)]; exact extract_all y

@[simp] theorem fieldN_formatXYN (h : BitVec 4) (x y : Reg) (n : BitVec 4) : fieldN (formatXYN h x y n) = n := by
  rw [fieldN, formatXYN, extract_append_mid _ _ 0 4 (by omega)]; exact extract_all n

/-- The two bytes of a word put together again. -/
@[simp] theorem bigEndian_bytes (op : Word) : bigEndian (highByte op) (lowByte op) = op := by
  apply BitVec.eq_of_getLsbD_eq
  intro k hk
  change BitVec.getLsbD (w := 8 + 8) (highByte op ++ lowByte op) k = _
  rw [BitVec.getLsbD_append]
  by_cases h : k < 8
  · simp [lowByte, h]
  · simp [highByte, h, show k - 8 < 8 by omega, show 8 + (k - 8) = k by omega]

/-- The high byte of two bytes put together. -/
@[simp] theorem highByte_bigEndian (hi lo : Byte) : highByte (bigEndian hi lo) = hi := by
  rw [highByte, bigEndian, extract_append_high _ _ 8 8 (by omega)]; exact extract_all hi

/-- The low byte of two bytes put together. -/
@[simp] theorem lowByte_bigEndian (hi lo : Byte) : lowByte (bigEndian hi lo) = lo := by
  rw [lowByte, bigEndian, extract_append_mid _ _ 0 8 (by omega)]; exact extract_all lo

end Sys2Proof
end

