-- ==== Sys2Proof/Laws/Framebuffer.lean ====
section
/-! SUPPORT. The cells of the framebuffer after a clear, a flip and one sprite column. -/

namespace Sys2Proof.Machine

@[simp] theorem Framebuffer.cell_clear (x : Fin 64) (y : Fin 32) : Framebuffer.cell Framebuffer.clear x y = false := by
  simp [Framebuffer.cell, Framebuffer.clear]

@[simp] theorem Framebuffer.cell_flip (fb : Framebuffer) (x u : Fin 64) (y w : Fin 32) :
    Framebuffer.cell (Framebuffer.flip fb x y) u w =
      (Framebuffer.cell fb u w ^^ decide (u = x ∧ w = y)) := by
  simp only [Framebuffer.cell, Framebuffer.flip, Fin.getElem_fin, Vector.getElem_set, Fin.val_inj]
  by_cases hy : y = w
  · subst hy
    by_cases hx : x = u
    · subst hx; simp
    · have : x.val ≠ u.val := fun e => hx (Fin.ext e)
      simp [this, Ne.symm hx]
  · simp [hy, Ne.symm hy]

/-- Framebuffers with the same cells are equal. -/
theorem Framebuffer.ext_cell {f g : Framebuffer}
    (h : ∀ x y, Framebuffer.cell f x y = Framebuffer.cell g x y) : f = g := by
  ext y hy x hx
  exact h ⟨x, hx⟩ ⟨y, hy⟩

/-- FB[x + 64*y] is the cell at column x and row y (10_state R32). -/
theorem Framebuffer.linear_cell (fb : Framebuffer) (x : Fin 64) (y : Fin 32) :
    Framebuffer.linear fb ⟨x.val + 64 * y.val, by omega⟩ = Framebuffer.cell fb x y := by
  unfold Framebuffer.linear
  congr 1
  · ext; simp
  · ext; simp; omega

/-- One sprite column flips the cell under a set bit and no other. -/
theorem Canvas.cell_drawColumn (b : Byte) (px py : Nat) (k : Canvas) (c : Nat) (u : Fin 64) (w : Fin 32) :
    Framebuffer.cell (Canvas.drawColumn b px py k c).fb u w =
      (Framebuffer.cell k.fb u w ^^ (spriteBit b c && decide (u = wrapColumn (px + c) ∧ w = wrapRow py))) := by
  unfold Canvas.drawColumn
  split <;> rename_i h <;> simp [Canvas.flipCell, h]

/-- One sprite column notes a collision where its set bit meets a set cell. -/
theorem Canvas.collision_drawColumn (b : Byte) (px py : Nat) (k : Canvas) (c : Nat) :
    (Canvas.drawColumn b px py k c).collision =
      (k.collision || (spriteBit b c && Framebuffer.cell k.fb (wrapColumn (px + c)) (wrapRow py))) := by
  unfold Canvas.drawColumn
  split <;> rename_i h <;> simp [Canvas.flipCell, h]

end Sys2Proof.Machine
end

