-- ==== Sys2Proof/Laws/State.lean ====
section
/-! SUPPORT. One lemma per field per update of the state, so that no proof unfolds a record update. -/

namespace Sys2Proof.Machine

variable (s : State)

/-! ### `State.setV` -/

@[simp] theorem State.setV_regs (r : Reg) (v : Byte) : (s.setV r v).regs = s.regs.set r.toNat v r.isLt := rfl
@[simp] theorem State.setV_i (r : Reg) (v : Byte) : (s.setV r v).i = s.i := rfl
@[simp] theorem State.setV_pc (r : Reg) (v : Byte) : (s.setV r v).pc = s.pc := rfl
@[simp] theorem State.setV_stack (r : Reg) (v : Byte) : (s.setV r v).stack = s.stack := rfl
@[simp] theorem State.setV_sp (r : Reg) (v : Byte) : (s.setV r v).sp = s.sp := rfl
@[simp] theorem State.setV_fb (r : Reg) (v : Byte) : (s.setV r v).fb = s.fb := rfl
@[simp] theorem State.setV_dt (r : Reg) (v : Byte) : (s.setV r v).dt = s.dt := rfl
@[simp] theorem State.setV_st (r : Reg) (v : Byte) : (s.setV r v).st = s.st := rfl
@[simp] theorem State.setV_mem (r : Reg) (v : Byte) : (s.setV r v).mem = s.mem := rfl
@[simp] theorem State.setV_fault (r : Reg) (v : Byte) : (s.setV r v).fault = s.fault := rfl
@[simp] theorem State.setV_params (r : Reg) (v : Byte) : (s.setV r v).params = s.params := rfl
@[simp] theorem State.setV_draws (r : Reg) (v : Byte) : (s.setV r v).draws = s.draws := rfl
@[simp] theorem State.setV_peek (r : Reg) (v : Byte) (q : Nat) : (s.setV r v).peek q = s.peek q := rfl

/-! ### `State.setI` -/

@[simp] theorem State.setI_regs (v : Word) : (s.setI v).regs = s.regs := rfl
@[simp] theorem State.setI_i (v : Word) : (s.setI v).i = v := rfl
@[simp] theorem State.setI_pc (v : Word) : (s.setI v).pc = s.pc := rfl
@[simp] theorem State.setI_stack (v : Word) : (s.setI v).stack = s.stack := rfl
@[simp] theorem State.setI_sp (v : Word) : (s.setI v).sp = s.sp := rfl
@[simp] theorem State.setI_fb (v : Word) : (s.setI v).fb = s.fb := rfl
@[simp] theorem State.setI_dt (v : Word) : (s.setI v).dt = s.dt := rfl
@[simp] theorem State.setI_st (v : Word) : (s.setI v).st = s.st := rfl
@[simp] theorem State.setI_mem (v : Word) : (s.setI v).mem = s.mem := rfl
@[simp] theorem State.setI_fault (v : Word) : (s.setI v).fault = s.fault := rfl
@[simp] theorem State.setI_params (v : Word) : (s.setI v).params = s.params := rfl
@[simp] theorem State.setI_draws (v : Word) : (s.setI v).draws = s.draws := rfl
@[simp] theorem State.setI_getV (v : Word) (q : Reg) : (s.setI v).getV q = s.getV q := rfl
@[simp] theorem State.setI_peek (v : Word) (q : Nat) : (s.setI v).peek q = s.peek q := rfl

/-! ### `State.advance` -/

@[simp] theorem State.advance_regs : s.advance.regs = s.regs := rfl
@[simp] theorem State.advance_i : s.advance.i = s.i := rfl
@[simp] theorem State.advance_pc : s.advance.pc = s.pc + 2 := rfl
@[simp] theorem State.advance_stack : s.advance.stack = s.stack := rfl
@[simp] theorem State.advance_sp : s.advance.sp = s.sp := rfl
@[simp] theorem State.advance_fb : s.advance.fb = s.fb := rfl
@[simp] theorem State.advance_dt : s.advance.dt = s.dt := rfl
@[simp] theorem State.advance_st : s.advance.st = s.st := rfl
@[simp] theorem State.advance_mem : s.advance.mem = s.mem := rfl
@[simp] theorem State.advance_fault : s.advance.fault = s.fault := rfl
@[simp] theorem State.advance_params : s.advance.params = s.params := rfl
@[simp] theorem State.advance_draws : s.advance.draws = s.draws := rfl
@[simp] theorem State.advance_getV (q : Reg) : s.advance.getV q = s.getV q := rfl
@[simp] theorem State.advance_peek (q : Nat) : s.advance.peek q = s.peek q := rfl

/-! ### `State.jumpTo` -/

@[simp] theorem State.jumpTo_regs (t : Word) : (s.jumpTo t).regs = s.regs := rfl
@[simp] theorem State.jumpTo_i (t : Word) : (s.jumpTo t).i = s.i := rfl
@[simp] theorem State.jumpTo_pc (t : Word) : (s.jumpTo t).pc = t := rfl
@[simp] theorem State.jumpTo_stack (t : Word) : (s.jumpTo t).stack = s.stack := rfl
@[simp] theorem State.jumpTo_sp (t : Word) : (s.jumpTo t).sp = s.sp := rfl
@[simp] theorem State.jumpTo_fb (t : Word) : (s.jumpTo t).fb = s.fb := rfl
@[simp] theorem State.jumpTo_dt (t : Word) : (s.jumpTo t).dt = s.dt := rfl
@[simp] theorem State.jumpTo_st (t : Word) : (s.jumpTo t).st = s.st := rfl
@[simp] theorem State.jumpTo_mem (t : Word) : (s.jumpTo t).mem = s.mem := rfl
@[simp] theorem State.jumpTo_fault (t : Word) : (s.jumpTo t).fault = s.fault := rfl
@[simp] theorem State.jumpTo_params (t : Word) : (s.jumpTo t).params = s.params := rfl
@[simp] theorem State.jumpTo_draws (t : Word) : (s.jumpTo t).draws = s.draws := rfl
@[simp] theorem State.jumpTo_getV (t : Word) (q : Reg) : (s.jumpTo t).getV q = s.getV q := rfl
@[simp] theorem State.jumpTo_peek (t : Word) (q : Nat) : (s.jumpTo t).peek q = s.peek q := rfl

/-! ### `State.skipIf` -/

@[simp] theorem State.skipIf_regs (c : Bool) : (s.skipIf c).regs = s.regs := rfl
@[simp] theorem State.skipIf_i (c : Bool) : (s.skipIf c).i = s.i := rfl
@[simp] theorem State.skipIf_pc (c : Bool) : (s.skipIf c).pc = if c then s.pc + 4 else s.pc + 2 := rfl
@[simp] theorem State.skipIf_stack (c : Bool) : (s.skipIf c).stack = s.stack := rfl
@[simp] theorem State.skipIf_sp (c : Bool) : (s.skipIf c).sp = s.sp := rfl
@[simp] theorem State.skipIf_fb (c : Bool) : (s.skipIf c).fb = s.fb := rfl
@[simp] theorem State.skipIf_dt (c : Bool) : (s.skipIf c).dt = s.dt := rfl
@[simp] theorem State.skipIf_st (c : Bool) : (s.skipIf c).st = s.st := rfl
@[simp] theorem State.skipIf_mem (c : Bool) : (s.skipIf c).mem = s.mem := rfl
@[simp] theorem State.skipIf_fault (c : Bool) : (s.skipIf c).fault = s.fault := rfl
@[simp] theorem State.skipIf_params (c : Bool) : (s.skipIf c).params = s.params := rfl
@[simp] theorem State.skipIf_draws (c : Bool) : (s.skipIf c).draws = s.draws := rfl
@[simp] theorem State.skipIf_getV (c : Bool) (q : Reg) : (s.skipIf c).getV q = s.getV q := rfl
@[simp] theorem State.skipIf_peek (c : Bool) (q : Nat) : (s.skipIf c).peek q = s.peek q := rfl

/-! ### `State.poke` -/

@[simp] theorem State.poke_regs (a : Nat) (v : Byte) : (s.poke a v).regs = s.regs := rfl
@[simp] theorem State.poke_i (a : Nat) (v : Byte) : (s.poke a v).i = s.i := rfl
@[simp] theorem State.poke_pc (a : Nat) (v : Byte) : (s.poke a v).pc = s.pc := rfl
@[simp] theorem State.poke_stack (a : Nat) (v : Byte) : (s.poke a v).stack = s.stack := rfl
@[simp] theorem State.poke_sp (a : Nat) (v : Byte) : (s.poke a v).sp = s.sp := rfl
@[simp] theorem State.poke_fb (a : Nat) (v : Byte) : (s.poke a v).fb = s.fb := rfl
@[simp] theorem State.poke_dt (a : Nat) (v : Byte) : (s.poke a v).dt = s.dt := rfl
@[simp] theorem State.poke_st (a : Nat) (v : Byte) : (s.poke a v).st = s.st := rfl
@[simp] theorem State.poke_mem (a : Nat) (v : Byte) : (s.poke a v).mem = Memory.write s.params.fontData s.mem a v := rfl
@[simp] theorem State.poke_fault (a : Nat) (v : Byte) : (s.poke a v).fault = s.fault := rfl
@[simp] theorem State.poke_params (a : Nat) (v : Byte) : (s.poke a v).params = s.params := rfl
@[simp] theorem State.poke_draws (a : Nat) (v : Byte) : (s.poke a v).draws = s.draws := rfl
@[simp] theorem State.poke_getV (a : Nat) (v : Byte) (q : Reg) : (s.poke a v).getV q = s.getV q := rfl

/-! ### `State.setFlag` -/

@[simp] theorem State.setFlag_regs (b : Bool) : (s.setFlag b).regs = s.regs.set vf.toNat (flagByte b) vf.isLt := rfl
@[simp] theorem State.setFlag_i (b : Bool) : (s.setFlag b).i = s.i := rfl
@[simp] theorem State.setFlag_pc (b : Bool) : (s.setFlag b).pc = s.pc := rfl
@[simp] theorem State.setFlag_stack (b : Bool) : (s.setFlag b).stack = s.stack := rfl
@[simp] theorem State.setFlag_sp (b : Bool) : (s.setFlag b).sp = s.sp := rfl
@[simp] theorem State.setFlag_fb (b : Bool) : (s.setFlag b).fb = s.fb := rfl
@[simp] theorem State.setFlag_dt (b : Bool) : (s.setFlag b).dt = s.dt := rfl
@[simp] theorem State.setFlag_st (b : Bool) : (s.setFlag b).st = s.st := rfl
@[simp] theorem State.setFlag_mem (b : Bool) : (s.setFlag b).mem = s.mem := rfl
@[simp] theorem State.setFlag_fault (b : Bool) : (s.setFlag b).fault = s.fault := rfl
@[simp] theorem State.setFlag_params (b : Bool) : (s.setFlag b).params = s.params := rfl
@[simp] theorem State.setFlag_draws (b : Bool) : (s.setFlag b).draws = s.draws := rfl
@[simp] theorem State.setFlag_peek (b : Bool) (q : Nat) : (s.setFlag b).peek q = s.peek q := rfl

/-! ### `State.setResultThenFlag` -/

@[simp] theorem State.setResultThenFlag_regs (x : Reg) (v : Byte) (b : Bool) : (s.setResultThenFlag x v b).regs = (s.regs.set x.toNat v x.isLt).set vf.toNat (flagByte b) vf.isLt := rfl
@[simp] theorem State.setResultThenFlag_i (x : Reg) (v : Byte) (b : Bool) : (s.setResultThenFlag x v b).i = s.i := rfl
@[simp] theorem State.setResultThenFlag_pc (x : Reg) (v : Byte) (b : Bool) : (s.setResultThenFlag x v b).pc = s.pc := rfl
@[simp] theorem State.setResultThenFlag_stack (x : Reg) (v : Byte) (b : Bool) : (s.setResultThenFlag x v b).stack = s.stack := rfl
@[simp] theorem State.setResultThenFlag_sp (x : Reg) (v : Byte) (b : Bool) : (s.setResultThenFlag x v b).sp = s.sp := rfl
@[simp] theorem State.setResultThenFlag_fb (x : Reg) (v : Byte) (b : Bool) : (s.setResultThenFlag x v b).fb = s.fb := rfl
@[simp] theorem State.setResultThenFlag_dt (x : Reg) (v : Byte) (b : Bool) : (s.setResultThenFlag x v b).dt = s.dt := rfl
@[simp] theorem State.setResultThenFlag_st (x : Reg) (v : Byte) (b : Bool) : (s.setResultThenFlag x v b).st = s.st := rfl
@[simp] theorem State.setResultThenFlag_mem (x : Reg) (v : Byte) (b : Bool) : (s.setResultThenFlag x v b).mem = s.mem := rfl
@[simp] theorem State.setResultThenFlag_fault (x : Reg) (v : Byte) (b : Bool) : (s.setResultThenFlag x v b).fault = s.fault := rfl
@[simp] theorem State.setResultThenFlag_params (x : Reg) (v : Byte) (b : Bool) : (s.setResultThenFlag x v b).params = s.params := rfl
@[simp] theorem State.setResultThenFlag_draws (x : Reg) (v : Byte) (b : Bool) : (s.setResultThenFlag x v b).draws = s.draws := rfl
@[simp] theorem State.setResultThenFlag_peek (x : Reg) (v : Byte) (b : Bool) (q : Nat) : (s.setResultThenFlag x v b).peek q = s.peek q := rfl

/-! ### `State.bumpIndex` -/

@[simp] theorem State.bumpIndex_regs (x : Reg) : (s.bumpIndex x).regs = s.regs := rfl
@[simp] theorem State.bumpIndex_i (x : Reg) : (s.bumpIndex x).i = s.i + BitVec.ofNat 16 (blockLength x) := rfl
@[simp] theorem State.bumpIndex_pc (x : Reg) : (s.bumpIndex x).pc = s.pc := rfl
@[simp] theorem State.bumpIndex_stack (x : Reg) : (s.bumpIndex x).stack = s.stack := rfl
@[simp] theorem State.bumpIndex_sp (x : Reg) : (s.bumpIndex x).sp = s.sp := rfl
@[simp] theorem State.bumpIndex_fb (x : Reg) : (s.bumpIndex x).fb = s.fb := rfl
@[simp] theorem State.bumpIndex_dt (x : Reg) : (s.bumpIndex x).dt = s.dt := rfl
@[simp] theorem State.bumpIndex_st (x : Reg) : (s.bumpIndex x).st = s.st := rfl
@[simp] theorem State.bumpIndex_mem (x : Reg) : (s.bumpIndex x).mem = s.mem := rfl
@[simp] theorem State.bumpIndex_fault (x : Reg) : (s.bumpIndex x).fault = s.fault := rfl
@[simp] theorem State.bumpIndex_params (x : Reg) : (s.bumpIndex x).params = s.params := rfl
@[simp] theorem State.bumpIndex_draws (x : Reg) : (s.bumpIndex x).draws = s.draws := rfl
@[simp] theorem State.bumpIndex_getV (x : Reg) (q : Reg) : (s.bumpIndex x).getV q = s.getV q := rfl
@[simp] theorem State.bumpIndex_peek (x : Reg) (q : Nat) : (s.bumpIndex x).peek q = s.peek q := rfl

/-! ### `State.tick` -/

@[simp] theorem State.tick_regs : s.tick.regs = s.regs := rfl
@[simp] theorem State.tick_i : s.tick.i = s.i := rfl
@[simp] theorem State.tick_pc : s.tick.pc = s.pc := rfl
@[simp] theorem State.tick_stack : s.tick.stack = s.stack := rfl
@[simp] theorem State.tick_sp : s.tick.sp = s.sp := rfl
@[simp] theorem State.tick_fb : s.tick.fb = s.fb := rfl
@[simp] theorem State.tick_dt : s.tick.dt = tickTimer s.dt := rfl
@[simp] theorem State.tick_st : s.tick.st = tickTimer s.st := rfl
@[simp] theorem State.tick_mem : s.tick.mem = s.mem := rfl
@[simp] theorem State.tick_fault : s.tick.fault = s.fault := rfl
@[simp] theorem State.tick_params : s.tick.params = s.params := rfl
@[simp] theorem State.tick_draws : s.tick.draws = s.draws := rfl
@[simp] theorem State.tick_getV (q : Reg) : s.tick.getV q = s.getV q := rfl
@[simp] theorem State.tick_peek (q : Nat) : s.tick.peek q = s.peek q := rfl

/-! ### `State.doReset` -/

@[simp] theorem State.doReset_regs : s.doReset.regs = Vector.replicate 16 0 := rfl
@[simp] theorem State.doReset_i : s.doReset.i = 0 := rfl
@[simp] theorem State.doReset_pc : s.doReset.pc = 0x200 := rfl
@[simp] theorem State.doReset_stack : s.doReset.stack = Vector.replicate 16 0 := rfl
@[simp] theorem State.doReset_sp : s.doReset.sp = 0 := rfl
@[simp] theorem State.doReset_fb : s.doReset.fb = Framebuffer.clear := rfl
@[simp] theorem State.doReset_dt : s.doReset.dt = 0 := rfl
@[simp] theorem State.doReset_st : s.doReset.st = 0 := rfl
@[simp] theorem State.doReset_mem : s.doReset.mem = [] := rfl
@[simp] theorem State.doReset_fault : s.doReset.fault = none := rfl
@[simp] theorem State.doReset_params : s.doReset.params = s.params := rfl
@[simp] theorem State.doReset_draws : s.doReset.draws = s.draws := rfl

end Sys2Proof.Machine
end

