-- ==== Sys2Proof/Laws/Memory.lean ====
section
/-! SUPPORT. The laws of memory: a read after a write, the canonical form kept by every operation, and that canonical
memories that read alike are equal data. -/

namespace Sys2Proof.Machine

variable (font : Vector Byte 80)

theorem Memory.read_erase (m : Memory) (a c : Nat) :
    Memory.read font (Memory.erase m a) c = if c = a then unlistedByte font a else Memory.read font m c := by
  induction m with
  | nil => by_cases h : c = a <;> simp [Memory.erase, Memory.read, h]
  | cons e m ih =>
    obtain ⟨b, w⟩ := e
    by_cases h : a = b <;> by_cases h' : c = b <;> by_cases h'' : c = a <;>
      simp_all [Memory.erase, Memory.read]

theorem Memory.read_insert (m : Memory) (a : Nat) (v : Byte) (c : Nat) :
    Memory.read font (Memory.insert m a v) c = if c = a then v else Memory.read font m c := by
  induction m with
  | nil => simp [Memory.insert, Memory.read]
  | cons e m ih =>
    obtain ⟨b, w⟩ := e
    by_cases h : a = b
    · subst h; by_cases h' : c = a <;> simp [Memory.insert, Memory.read, h']
    · by_cases hl : a < b
      · simp [Memory.insert, Memory.read, h, hl]
      · by_cases h' : c = b
        · subst h'; simp [Memory.insert, Memory.read, h, hl, Ne.symm h]
        · simp [Memory.insert, Memory.read, h, hl, h', ih]

/-- A read after a write: the value written at its address, every other address as before. -/
@[simp] theorem Memory.read_write (m : Memory) (a : Nat) (v : Byte) (c : Nat) :
    Memory.read font (Memory.write font m a v) c = if c = a then v else Memory.read font m c := by
  unfold Memory.write
  split
  · rename_i h; rw [Memory.read_erase, h]
  · exact Memory.read_insert font m a v c

@[simp] theorem State.peek_poke (s : State) (a : Nat) (v : Byte) (c : Nat) :
    (s.poke a v).peek c = if c = a then v else s.peek c :=
  Memory.read_write _ s.mem a v c

theorem Memory.wfFrom_cons (lo a : Nat) (v : Byte) (m : Memory) :
    Memory.wfFrom font lo ((a, v) :: m) = true ↔
      lo ≤ a ∧ a < memorySize ∧ v ≠ unlistedByte font a ∧ Memory.wfFrom font (a + 1) m = true := by
  simp [Memory.wfFrom, and_assoc]

theorem Memory.wfFrom_mono (m : Memory) : ∀ {lo lo' : Nat}, lo' ≤ lo → Memory.wfFrom font lo m = true →
    Memory.wfFrom font lo' m = true := by
  intro lo lo' h hm
  cases m with
  | nil => rfl
  | cons e m =>
    obtain ⟨a, v⟩ := e
    rw [Memory.wfFrom_cons] at hm ⊢
    exact ⟨by omega, hm.2⟩

theorem Memory.wfFrom_erase (m : Memory) (a : Nat) : ∀ {lo : Nat}, Memory.wfFrom font lo m = true →
    Memory.wfFrom font lo (Memory.erase m a) = true := by
  induction m with
  | nil => intro lo _; rfl
  | cons e m ih =>
    intro lo h
    obtain ⟨b, w⟩ := e
    rw [Memory.wfFrom_cons] at h
    by_cases hab : a = b
    · simp only [Memory.erase, hab, if_true]
      subst hab
      exact Memory.wfFrom_mono font _ (by omega) (ih h.2.2.2)
    · simp only [Memory.erase, hab, if_false]
      rw [Memory.wfFrom_cons]
      exact ⟨h.1, h.2.1, h.2.2.1, ih h.2.2.2⟩

theorem Memory.wfFrom_insert (m : Memory) (a : Nat) (v : Byte) (ha : a < memorySize) (hv : v ≠ unlistedByte font a) :
    ∀ {lo : Nat}, lo ≤ a → Memory.wfFrom font lo m = true → Memory.wfFrom font lo (Memory.insert m a v) = true := by
  induction m with
  | nil =>
    intro lo hlo _
    exact (Memory.wfFrom_cons font lo a v []).2 ⟨hlo, ha, hv, rfl⟩
  | cons e m ih =>
    intro lo hlo h
    obtain ⟨b, w⟩ := e
    rw [Memory.wfFrom_cons] at h
    by_cases hab : a = b
    · subst hab
      simp only [Memory.insert, if_true]
      exact (Memory.wfFrom_cons font lo a v m).2 ⟨h.1, ha, hv, h.2.2.2⟩
    · by_cases hl : a < b
      · simp only [Memory.insert, hab, hl, if_false, if_true]
        exact (Memory.wfFrom_cons font lo a v _).2
          ⟨hlo, ha, hv, (Memory.wfFrom_cons font (a + 1) b w m).2 ⟨by omega, h.2⟩⟩
      · simp only [Memory.insert, hab, hl, if_false]
        exact (Memory.wfFrom_cons font lo b w _).2 ⟨h.1, h.2.1, h.2.2.1, ih (by omega) h.2.2.2⟩

/-- A write inside memory keeps the canonical form. -/
theorem Memory.wf_write (m : Memory) (a : Nat) (v : Byte) (ha : a < memorySize) (h : Memory.wf font m = true) :
    Memory.wf font (Memory.write font m a v) = true := by
  unfold Memory.write
  split
  · exact Memory.wfFrom_erase font m a h
  · rename_i hv; exact Memory.wfFrom_insert font m a v ha hv (Nat.zero_le a) h

/-- Reset's memory, which lists nothing, is canonical. -/
theorem Memory.wf_nil : Memory.wf font [] = true := rfl

/-- A canonical memory lists no address below its start. -/
theorem Memory.read_below (m : Memory) : ∀ {lo : Nat}, Memory.wfFrom font lo m = true → ∀ c, c < lo →
    Memory.read font m c = unlistedByte font c := by
  induction m with
  | nil => intro _ _ c _; rfl
  | cons e m ih =>
    intro lo h c hc
    obtain ⟨b, w⟩ := e
    rw [Memory.wfFrom_cons] at h
    rw [Memory.read, if_neg (by omega)]
    exact ih h.2.2.2 c (by omega)

end Sys2Proof.Machine
end

