-- ==== Sys2Proof/Laws/Registers.lean ====
section
/-! SUPPORT. Reading a register after a write: the general registers, the flags register, the block write. -/

namespace Sys2Proof.Machine

variable (s : State)

@[simp] theorem State.getV_setV (r q : Reg) (v : Byte) : (s.setV r v).getV q = if q = r then v else s.getV q := by
  simp only [State.getV, State.setV, Vector.getElem_set, BitVec.toNat_inj, eq_comm]

@[simp] theorem State.getV_setFlag (b : Bool) (q : Reg) : (s.setFlag b).getV q = if q = vf then flagByte b else s.getV q :=
  State.getV_setV s vf q (flagByte b)

@[simp] theorem State.getV_setResultThenFlag (x : Reg) (v : Byte) (b : Bool) (q : Reg) :
    (s.setResultThenFlag x v b).getV q = if q = vf then flagByte b else if q = x then v else s.getV q := by
  simp [State.setResultThenFlag]

/-- Two states with the same value in every register have the same register file. -/
theorem regs_ext {s t : State} (h : ∀ r : Reg, s.getV r = t.getV r) : s.regs = t.regs := by
  ext k hk
  have := h (BitVec.ofNat 4 k)
  simp only [State.getV, BitVec.toNat_ofNat, Nat.mod_eq_of_lt (show k < 2 ^ 4 from hk)] at this
  rw [this]

/-- A block write changes the register file alone. -/
theorem setRegisters_eq (bs : List Byte) : ∀ (s : State) (k : Nat),
    setRegisters s k bs = { s with regs := (setRegisters s k bs).regs } := by
  induction bs with
  | nil => intro s k; rfl
  | cons b bs ih => intro s k; rw [setRegisters, ih]; rfl

/-- A block write from V[k] gives V[k + j] the j-th byte and leaves the other registers. -/
theorem getV_setRegisters (bs : List Byte) : ∀ (s : State) (k : Nat) (_ : k + bs.length ≤ 16) (q : Reg),
    (setRegisters s k bs).getV q =
      if k ≤ q.toNat then (bs[q.toNat - k]?).getD (s.getV q) else s.getV q := by
  induction bs with
  | nil => intro s k _ q; simp [setRegisters]
  | cons b bs ih =>
    intro s k h q
    simp only [List.length_cons] at h
    rw [setRegisters, ih _ _ (by omega)]
    have hk : (BitVec.ofNat 4 k).toNat = k := by simp; omega
    have hq : q = BitVec.ofNat 4 k ↔ q.toNat = k := by rw [← BitVec.toNat_inj, hk]
    simp only [State.getV_setV, hq]
    rcases Nat.lt_trichotomy q.toNat k with h1 | h1 | h1
    · rw [if_neg (by omega), if_neg (by omega), if_neg (by omega)]
    · subst h1
      rw [if_neg (by omega)]; simp
    · rw [if_pos (by omega), if_neg (by omega), if_pos (by omega), show q.toNat - k = q.toNat - (k + 1) + 1 by omega,
        List.getElem?_cons_succ]

@[simp] theorem registerList_length (x : Reg) : (registerList s x).length = blockLength x := by simp [registerList]

theorem blockLength_le (x : Reg) : blockLength x ≤ 16 := by have := x.isLt; unfold blockLength; omega

/-- The k-th stored register is V[k]. -/
theorem registerList_getElem (x : Reg) (k : Nat) (h : k < (registerList s x).length) :
    (registerList s x)[k] = s.getV (BitVec.ofNat 4 k) := by simp [registerList]

end Sys2Proof.Machine
end

