-- ==== Sys2Proof/Laws/Ops.lean ====
section
/-! SUPPORT. What each shared operation can do, said once: range checks, block reads and writes, the stack, committing or
taking a fault, the fetch. -/

namespace Sys2Proof.Machine

variable (s : State)

/-! ### Range checks -/

theorem checkRange_ok {a : Word} {n : Nat} (h : n = 0 ∨ a.toNat + n ≤ memorySize) : checkRange a n = .ok () := by
  unfold checkRange memorySize at *
  split
  · rfl
  · rw [if_neg (by omega)]

theorem checkRange_error {a : Word} {n : Nat} (h : n ≠ 0 ∧ memorySize < a.toNat + n) :
    checkRange a n = .error (.memoryOutOfBounds (lowestOutside a)) := by
  unfold checkRange memorySize at *
  rw [if_neg h.1, if_pos (by omega)]

theorem lowestOutside_toNat (a : Word) : (lowestOutside a).toNat = max a.toNat 0x1000 := by
  unfold lowestOutside memorySize
  split
  · rw [Nat.max_eq_right (by omega)]; rfl
  · rw [Nat.max_eq_left (by omega)]

/-! ### Block reads and writes -/

theorem loadBytes_ok : ∀ (n a : Nat), a + n ≤ memorySize →
    loadBytes s a n = .ok ((List.range n).map fun k => s.peek (a + k)) := by
  intro n
  induction n with
  | zero => intro a _; rfl
  | succ n ih =>
    intro a h
    simp only [loadBytes, memRead, if_pos (show a < memorySize by omega), ih (a + 1) (by omega)]
    rw [List.range_succ_eq_map]
    simp [Nat.add_assoc, Nat.add_comm 1]

theorem storeBytes_ok (bs : List Byte) : ∀ (s : State) (a : Nat), a + bs.length ≤ memorySize →
    storeBytes s a bs = .ok (s.pokeBytes a bs) := by
  induction bs with
  | nil => intro s a _; rfl
  | cons b bs ih =>
    intro s a h
    simp only [List.length_cons] at h
    simp only [storeBytes, memWrite, if_pos (show a < memorySize by omega), State.pokeBytes]
    exact ih _ _ (by omega)

/-- A block write changes memory alone. -/
theorem pokeBytes_eq (bs : List Byte) : ∀ (s : State) (a : Nat),
    s.pokeBytes a bs = { s with mem := (s.pokeBytes a bs).mem } := by
  induction bs with
  | nil => intro s a; rfl
  | cons b bs ih => intro s a; rw [State.pokeBytes, ih]; rfl

/-- Reading a byte after a block write: the bytes at their addresses, every other address as before. -/
theorem peek_pokeBytes (bs : List Byte) : ∀ (s : State) (a c : Nat),
    (s.pokeBytes a bs).peek c = if a ≤ c then (bs[c - a]?).getD (s.peek c) else s.peek c := by
  induction bs with
  | nil => intro s a c; simp [State.pokeBytes]
  | cons b bs ih =>
    intro s a c
    rw [State.pokeBytes, ih, State.peek_poke]
    rcases Nat.lt_trichotomy c a with h | h | h
    · rw [if_neg (by omega), if_neg (by omega), if_neg (by omega)]
    · subst h
      rw [if_neg (by omega)]; simp
    · rw [if_pos (by omega), if_neg (by omega), if_pos (by omega), show c - a = c - (a + 1) + 1 by omega, List.getElem?_cons_succ]

/-- A block write inside memory keeps the canonical form. -/
theorem wf_pokeBytes (bs : List Byte) : ∀ (s : State) (a : Nat), a + bs.length ≤ memorySize →
    Memory.wf s.params.fontData s.mem = true → Memory.wf s.params.fontData (s.pokeBytes a bs).mem = true := by
  induction bs with
  | nil => intro s a _ h; exact h
  | cons b bs ih =>
    intro s a ha h
    simp only [List.length_cons] at ha
    exact ih (s.poke a b) (a + 1) (by omega) (Memory.wf_write _ s.mem a b (by omega) h)

/-- A block write to memory reads and changes none of the stack, the framebuffer, the timers and the count of draws. -/
theorem pokeBytes_bystanders (bs : List Byte) : ∀ (s : State) (a : Nat) (stack' : Vector Word 16) (sp' : Fin 17)
    (fb' : Framebuffer) (dt' st' : Byte) (draws' : Nat),
    ({ s with stack := stack', sp := sp', fb := fb', dt := dt', st := st', draws := draws' } : State).pokeBytes a bs =
      { s.pokeBytes a bs with stack := stack', sp := sp', fb := fb', dt := dt', st := st', draws := draws' } := by
  induction bs with
  | nil => intros; rfl
  | cons b bs ih => intro s a stack' sp' fb' dt' st' draws'; exact ih (s.poke a b) (a + 1) stack' sp' fb' dt' st' draws'

/-- A block write to the registers reads and changes none of the stack, the framebuffer, the timers and the count of
draws. -/
theorem setRegisters_bystanders (bs : List Byte) : ∀ (s : State) (k : Nat) (stack' : Vector Word 16) (sp' : Fin 17)
    (fb' : Framebuffer) (dt' st' : Byte) (draws' : Nat),
    setRegisters ({ s with stack := stack', sp := sp', fb := fb', dt := dt', st := st', draws := draws' } : State) k bs =
      { setRegisters s k bs with stack := stack', sp := sp', fb := fb', dt := dt', st := st', draws := draws' } := by
  induction bs with
  | nil => intros; rfl
  | cons b bs ih =>
    intro s k stack' sp' fb' dt' st' draws'
    exact ih (s.setV (BitVec.ofNat 4 k) b) (k + 1) stack' sp' fb' dt' st' draws'

theorem loadRange_ok {a : Word} {n : Nat} (h : n = 0 ∨ a.toNat + n ≤ memorySize) :
    loadRange s a n = .ok ((List.range n).map fun k => s.peek (a.toNat + k)) := by
  rw [loadRange, checkRange_ok h]
  rcases h with h | h
  · subst h; rfl
  · exact loadBytes_ok s n a.toNat h

theorem loadRange_error {a : Word} {n : Nat} (h : n ≠ 0 ∧ memorySize < a.toNat + n) :
    loadRange s a n = .error (.memoryOutOfBounds (lowestOutside a)) := by
  rw [loadRange, checkRange_error h]

theorem storeRange_ok {a : Word} {bs : List Byte} (h : bs.length = 0 ∨ a.toNat + bs.length ≤ memorySize) :
    storeRange s a bs = .ok (s.pokeBytes a.toNat bs) := by
  rw [storeRange, checkRange_ok h]
  rcases h with h | h
  · rw [List.eq_nil_of_length_eq_zero h]; rfl
  · exact storeBytes_ok bs s a.toNat h

theorem storeRange_error {a : Word} {bs : List Byte} (h : bs.length ≠ 0 ∧ memorySize < a.toNat + bs.length) :
    storeRange s a bs = .error (.memoryOutOfBounds (lowestOutside a)) := by
  rw [storeRange, checkRange_error h]

/-! ### The call stack -/

theorem push_full (v : Word) (h : s.sp.val = 16) : push s v = .error .stackOverflow := by
  rw [push, dif_pos h]

theorem push_ok (v : Word) (h : s.sp.val ≠ 16) :
    push s v = .ok { s with stack := s.stack.set s.sp.val v (by omega), sp := ⟨s.sp.val + 1, by omega⟩ } := by
  rw [push, dif_neg h]

theorem pop_empty (h : s.sp.val = 0) : pop s = .error .stackUnderflow := by
  rw [pop, dif_pos h]

theorem pop_ok (h : s.sp.val ≠ 0) :
    pop s = .ok (s.stack[s.sp.val - 1]'(by omega), { s with sp := ⟨s.sp.val - 1, by omega⟩ }) := by
  rw [pop, dif_neg h]

/-! ### Committing, or taking a fault -/

@[simp] theorem attempt_ok (t : State) : attempt s (.ok t) = .next t := rfl

@[simp] theorem attempt_error (f : Fault) : attempt s (.error f) = .next { s with fault := some f } := rfl

/-- An attempt always answers a next state: what the rule wrote, or the state before with the latch set. -/
theorem attempt_next (r : Except Fault State) :
    (∃ t, r = .ok t ∧ attempt s r = .next t) ∨ (∃ f, r = .error f ∧ attempt s r = .next { s with fault := some f }) := by
  cases r with
  | ok t => exact .inl ⟨t, rfl, rfl⟩
  | error f => exact .inr ⟨f, rfl, rfl⟩

/-! ### The fetch -/

theorem fetch_ok (h : s.pc.toNat + 1 ≤ 0xFFF) :
    fetch s = .ok (bigEndian (s.peek s.pc.toNat) (s.peek (s.pc.toNat + 1))) := by
  rw [fetch, if_neg (by omega)]

theorem fetch_error (h : 0xFFF < s.pc.toNat + 1) : fetch s = .error (.memoryOutOfBounds (lowestOutside s.pc)) := by
  rw [fetch, if_pos h]

end Sys2Proof.Machine
end

