-- ==== Sys2Proof/Laws/Meanings.lean ====
section
/-! SUPPORT. The meanings that check something, in closed form: what they commit when the check passes, which fault they
take when it does not. -/

namespace Sys2Proof.Machine

variable (s : State)

theorem execCall_ok (nnn : Addr12) (h : s.sp.val ≠ 16) :
    execCall nnn s = .next { s with stack := s.stack.set s.sp.val s.pc (by omega), sp := ⟨s.sp.val + 1, by omega⟩, pc := zextAddr nnn } := by
  rw [execCall, push_ok s s.pc h]; rfl

theorem execCall_full (nnn : Addr12) (h : s.sp.val = 16) : execCall nnn s = .next { s with fault := some .stackOverflow } := by
  rw [execCall, push_full s s.pc h]; rfl

theorem execRet_ok (h : s.sp.val ≠ 0) :
    execRet s = .next { s with sp := ⟨s.sp.val - 1, by omega⟩, pc := s.stack[s.sp.val - 1]'(by omega) + 2 } := by
  rw [execRet, pop_ok s h]; rfl

theorem execRet_empty (h : s.sp.val = 0) : execRet s = .next { s with fault := some .stackUnderflow } := by
  rw [execRet, pop_empty s h]; rfl

theorem execLdB_ok (x : Reg) (h : s.i.toNat + 3 ≤ memorySize) :
    execLdB x s = .next (s.pokeBytes s.i.toNat (bcdDigits (s.getV x))).advance := by
  rw [execLdB, storeRange_ok s (.inr h)]; rfl

theorem execLdB_fault (x : Reg) (h : memorySize < s.i.toNat + 3) :
    execLdB x s = .next { s with fault := some (.memoryOutOfBounds (lowestOutside s.i)) } := by
  rw [execLdB, storeRange_error s ⟨by simp [bcdDigits], h⟩]; rfl

theorem execLdMemVx_ok (x : Reg) (h : s.i.toNat + blockLength x ≤ memorySize) :
    execLdMemVx x s = .next ((s.pokeBytes s.i.toNat (registerList s x)).bumpIndex x).advance := by
  rw [execLdMemVx, storeRange_ok s (.inr (by simpa using h))]; rfl

theorem execLdMemVx_fault (x : Reg) (h : memorySize < s.i.toNat + blockLength x) :
    execLdMemVx x s = .next { s with fault := some (.memoryOutOfBounds (lowestOutside s.i)) } := by
  rw [execLdMemVx, storeRange_error s ⟨by simp [blockLength], by simpa using h⟩]; rfl

theorem execLdVxMem_ok (x : Reg) (h : s.i.toNat + blockLength x ≤ memorySize) :
    execLdVxMem x s =
      .next ((setRegisters s 0 ((List.range (blockLength x)).map fun k => s.peek (s.i.toNat + k))).bumpIndex x).advance := by
  rw [execLdVxMem, loadRange_ok s (.inr h)]; rfl

theorem execLdVxMem_fault (x : Reg) (h : memorySize < s.i.toNat + blockLength x) :
    execLdVxMem x s = .next { s with fault := some (.memoryOutOfBounds (lowestOutside s.i)) } := by
  rw [execLdVxMem, loadRange_error s ⟨by simp [blockLength], h⟩]; rfl

/-- The bytes of the sprite DRW draws. -/
def spriteRows (n : BitVec 4) : List Byte := (List.range n.toNat).map fun k => s.peek (s.i.toNat + k)

theorem execDrw_ok (x y : Reg) (n : BitVec 4) (h : n.toNat = 0 ∨ s.i.toNat + n.toNat ≤ memorySize) :
    execDrw x y n s =
      .next ({ s with fb := (drawn s x y (spriteRows s n)).fb }.setFlag (drawn s x y (spriteRows s n)).collision).advance := by
  rw [execDrw, loadRange_ok s h]; rfl

theorem execDrw_fault (x y : Reg) (n : BitVec 4) (h : n.toNat ≠ 0 ∧ memorySize < s.i.toNat + n.toNat) :
    execDrw x y n s = .next { s with fault := some (.memoryOutOfBounds (lowestOutside s.i)) } := by
  rw [execDrw, loadRange_error s h]; rfl

end Sys2Proof.Machine
end

