-- ==== Sys2Proof/Laws/PerInstr.lean ====
section
/-! SUPPORT. Per instruction: the encoder's word has the mask and match of the instruction's row of 30_encoding R80 (and of
spec/opcode_table.json). -/

namespace Sys2Proof.Laws

/-- The mask and match of an instruction's row, copied from the table of 30_encoding R80. -/
def tableRow : Instr → Word × Word
  | .cls => (0xFFFF, 0x00E0)
  | .ret => (0xFFFF, 0x00EE)
  | .jp _ => (0xF000, 0x1000)
  | .call _ => (0xF000, 0x2000)
  | .seImm _ _ => (0xF000, 0x3000)
  | .sneImm _ _ => (0xF000, 0x4000)
  | .seReg _ _ => (0xF000, 0x5000)
  | .ldImm _ _ => (0xF000, 0x6000)
  | .addImm _ _ => (0xF000, 0x7000)
  | .ldReg _ _ => (0xF00F, 0x8000)
  | .or _ _ => (0xF00F, 0x8001)
  | .and _ _ => (0xF00F, 0x8002)
  | .xor _ _ => (0xF00F, 0x8003)
  | .addReg _ _ => (0xF00F, 0x8004)
  | .sub _ _ => (0xF00F, 0x8005)
  | .shr _ _ => (0xF00F, 0x8006)
  | .subn _ _ => (0xF00F, 0x8007)
  | .shl _ _ => (0xF00F, 0x800E)
  | .sneReg _ _ => (0xF000, 0x9000)
  | .ldI _ => (0xF000, 0xA000)
  | .jpV0 _ => (0xF000, 0xB000)
  | .rnd _ _ => (0xF000, 0xC000)
  | .drw _ _ _ => (0xF000, 0xD000)
  | .skp _ => (0xF0FF, 0xE09E)
  | .sknp _ => (0xF0FF, 0xE0A1)
  | .ldVxDt _ => (0xF0FF, 0xF007)
  | .ldVxK _ => (0xF0FF, 0xF00A)
  | .ldDtVx _ => (0xF0FF, 0xF015)
  | .ldStVx _ => (0xF0FF, 0xF018)
  | .addI _ => (0xF0FF, 0xF01E)
  | .ldF _ => (0xF0FF, 0xF029)
  | .ldB _ => (0xF0FF, 0xF033)
  | .ldMemVx _ => (0xF0FF, 0xF055)
  | .ldVxMem _ => (0xF0FF, 0xF065)

/-- Two words with the same sixteen bits are equal. -/
theorem word_ext {a b : Word} (h : ∀ k, k < 16 → a.getLsbD k = b.getLsbD k) : a = b := BitVec.eq_of_getLsbD_eq h

/-- The high nibble of a word, the rest masked away, is that of its format. -/
theorem mask_high (op : Word) : op &&& 0xF000 = formatNNN (fieldH op) 0 := by
  apply word_ext
  intro k hk
  change _ = BitVec.getLsbD (w := 4 + 12) (fieldH op ++ (0 : Addr12)) k
  rw [BitVec.getLsbD_append]
  interval_cases k <;> simp [fieldH]

/-- The high and low nibbles of a word, the rest masked away. -/
theorem mask_high_low (op : Word) : op &&& 0xF00F = formatXYN (fieldH op) 0 0 (fieldN op) := by
  apply word_ext
  intro k hk
  change _ = BitVec.getLsbD (w := 4 + 4 + 4 + 4) (fieldH op ++ (0 : Reg) ++ (0 : Reg) ++ fieldN op) k
  simp only [BitVec.getLsbD_append]
  interval_cases k <;> simp [fieldH, fieldN]

/-- The high nibble and the low byte of a word, the rest masked away. -/
theorem mask_high_byte (op : Word) : op &&& 0xF0FF = formatXNN (fieldH op) 0 (fieldNN op) := by
  apply word_ext
  intro k hk
  change _ = BitVec.getLsbD (w := 4 + 4 + 8) (fieldH op ++ (0 : Reg) ++ fieldNN op) k
  simp only [BitVec.getLsbD_append]
  interval_cases k <;> simp [fieldH, fieldNN]

end Sys2Proof.Laws

/-- The encoding of `i` has the match of its table row under the row's mask (30_encoding R80). -/
def Sys2Proof.Laws.TableRow.Statement (i : Sys2Proof.Instr) : Prop :=
  Sys2Proof.encode i &&& (Sys2Proof.Laws.tableRow i).1 = (Sys2Proof.Laws.tableRow i).2

namespace Sys2Proof.Laws

theorem TableRow.cls : TableRow.Statement .cls := by rfl
theorem TableRow.ret : TableRow.Statement .ret := by rfl
theorem TableRow.jp (nnn : Addr12) : TableRow.Statement (.jp nnn) := by
  simp only [TableRow.Statement, tableRow, encode, mask_high, fieldH_formatNNN]; rfl
theorem TableRow.call (nnn : Addr12) : TableRow.Statement (.call nnn) := by
  simp only [TableRow.Statement, tableRow, encode, mask_high, fieldH_formatNNN]; rfl
theorem TableRow.seImm (x : Reg) (nn : Byte) : TableRow.Statement (.seImm x nn) := by
  simp only [TableRow.Statement, tableRow, encode, mask_high, fieldH_formatXNN]; rfl
theorem TableRow.sneImm (x : Reg) (nn : Byte) : TableRow.Statement (.sneImm x nn) := by
  simp only [TableRow.Statement, tableRow, encode, mask_high, fieldH_formatXNN]; rfl
theorem TableRow.seReg (x y : Reg) : TableRow.Statement (.seReg x y) := by
  simp only [TableRow.Statement, tableRow, encode, mask_high, fieldH_formatXYN]; rfl
theorem TableRow.ldImm (x : Reg) (nn : Byte) : TableRow.Statement (.ldImm x nn) := by
  simp only [TableRow.Statement, tableRow, encode, mask_high, fieldH_formatXNN]; rfl
theorem TableRow.addImm (x : Reg) (nn : Byte) : TableRow.Statement (.addImm x nn) := by
  simp only [TableRow.Statement, tableRow, encode, mask_high, fieldH_formatXNN]; rfl
theorem TableRow.ldReg (x y : Reg) : TableRow.Statement (.ldReg x y) := by
  simp only [TableRow.Statement, tableRow, encode, mask_high_low, fieldH_formatXYN, fieldN_formatXYN]; rfl
theorem TableRow.or (x y : Reg) : TableRow.Statement (.or x y) := by
  simp only [TableRow.Statement, tableRow, encode, mask_high_low, fieldH_formatXYN, fieldN_formatXYN]; rfl
theorem TableRow.and (x y : Reg) : TableRow.Statement (.and x y) := by
  simp only [TableRow.Statement, tableRow, encode, mask_high_low, fieldH_formatXYN, fieldN_formatXYN]; rfl
theorem TableRow.xor (x y : Reg) : TableRow.Statement (.xor x y) := by
  simp only [TableRow.Statement, tableRow, encode, mask_high_low, fieldH_formatXYN, fieldN_formatXYN]; rfl
theorem TableRow.addReg (x y : Reg) : TableRow.Statement (.addReg x y) := by
  simp only [TableRow.Statement, tableRow, encode, mask_high_low, fieldH_formatXYN, fieldN_formatXYN]; rfl
theorem TableRow.sub (x y : Reg) : TableRow.Statement (.sub x y) := by
  simp only [TableRow.Statement, tableRow, encode, mask_high_low, fieldH_formatXYN, fieldN_formatXYN]; rfl
theorem TableRow.shr (x y : Reg) : TableRow.Statement (.shr x y) := by
  simp only [TableRow.Statement, tableRow, encode, mask_high_low, fieldH_formatXYN, fieldN_formatXYN]; rfl
theorem TableRow.subn (x y : Reg) : TableRow.Statement (.subn x y) := by
  simp only [TableRow.Statement, tableRow, encode, mask_high_low, fieldH_formatXYN, fieldN_formatXYN]; rfl
theorem TableRow.shl (x y : Reg) : TableRow.Statement (.shl x y) := by
  simp only [TableRow.Statement, tableRow, encode, mask_high_low, fieldH_formatXYN, fieldN_formatXYN]; rfl
theorem TableRow.sneReg (x y : Reg) : TableRow.Statement (.sneReg x y) := by
  simp only [TableRow.Statement, tableRow, encode, mask_high, fieldH_formatXYN]; rfl
theorem TableRow.ldI (nnn : Addr12) : TableRow.Statement (.ldI nnn) := by
  simp only [TableRow.Statement, tableRow, encode, mask_high, fieldH_formatNNN]; rfl
theorem TableRow.jpV0 (nnn : Addr12) : TableRow.Statement (.jpV0 nnn) := by
  simp only [TableRow.Statement, tableRow, encode, mask_high, fieldH_formatNNN]; rfl
theorem TableRow.rnd (x : Reg) (nn : Byte) : TableRow.Statement (.rnd x nn) := by
  simp only [TableRow.Statement, tableRow, encode, mask_high, fieldH_formatXNN]; rfl
theorem TableRow.drw (x y : Reg) (n : BitVec 4) : TableRow.Statement (.drw x y n) := by
  simp only [TableRow.Statement, tableRow, encode, mask_high, fieldH_formatXYN]; rfl
theorem TableRow.skp (x : Reg) : TableRow.Statement (.skp x) := by
  simp only [TableRow.Statement, tableRow, encode, mask_high_byte, fieldH_formatXNN, fieldNN_formatXNN]; rfl
theorem TableRow.sknp (x : Reg) : TableRow.Statement (.sknp x) := by
  simp only [TableRow.Statement, tableRow, encode, mask_high_byte, fieldH_formatXNN, fieldNN_formatXNN]; rfl
theorem TableRow.ldVxDt (x : Reg) : TableRow.Statement (.ldVxDt x) := by
  simp only [TableRow.Statement, tableRow, encode, mask_high_byte, fieldH_formatXNN, fieldNN_formatXNN]; rfl
theorem TableRow.ldVxK (x : Reg) : TableRow.Statement (.ldVxK x) := by
  simp only [TableRow.Statement, tableRow, encode, mask_high_byte, fieldH_formatXNN, fieldNN_formatXNN]; rfl
theorem TableRow.ldDtVx (x : Reg) : TableRow.Statement (.ldDtVx x) := by
  simp only [TableRow.Statement, tableRow, encode, mask_high_byte, fieldH_formatXNN, fieldNN_formatXNN]; rfl
theorem TableRow.ldStVx (x : Reg) : TableRow.Statement (.ldStVx x) := by
  simp only [TableRow.Statement, tableRow, encode, mask_high_byte, fieldH_formatXNN, fieldNN_formatXNN]; rfl
theorem TableRow.addI (x : Reg) : TableRow.Statement (.addI x) := by
  simp only [TableRow.Statement, tableRow, encode, mask_high_byte, fieldH_formatXNN, fieldNN_formatXNN]; rfl
theorem TableRow.ldF (x : Reg) : TableRow.Statement (.ldF x) := by
  simp only [TableRow.Statement, tableRow, encode, mask_high_byte, fieldH_formatXNN, fieldNN_formatXNN]; rfl
theorem TableRow.ldB (x : Reg) : TableRow.Statement (.ldB x) := by
  simp only [TableRow.Statement, tableRow, encode, mask_high_byte, fieldH_formatXNN, fieldNN_formatXNN]; rfl
theorem TableRow.ldMemVx (x : Reg) : TableRow.Statement (.ldMemVx x) := by
  simp only [TableRow.Statement, tableRow, encode, mask_high_byte, fieldH_formatXNN, fieldNN_formatXNN]; rfl
theorem TableRow.ldVxMem (x : Reg) : TableRow.Statement (.ldVxMem x) := by
  simp only [TableRow.Statement, tableRow, encode, mask_high_byte, fieldH_formatXNN, fieldNN_formatXNN]; rfl

end Sys2Proof.Laws
end

