-- ==== Sys2Proof/Machine/Assembly.lean ====
section
/-! DEFINITION. The assembly syntax of 30_encoding R90, the spec's own choice (92 D23): text only, which no meaning reads.
How many digits a number is written with follows the examples of 95_test_vectors [log 27]. -/

namespace Sys2Proof.Machine

/-- One hexadecimal digit. -/
def hexDigit (v : BitVec 4) : String :=
  match v with
  | 0x0#4 => "0" | 0x1#4 => "1" | 0x2#4 => "2" | 0x3#4 => "3" | 0x4#4 => "4" | 0x5#4 => "5" | 0x6#4 => "6" | 0x7#4 => "7"
  | 0x8#4 => "8" | 0x9#4 => "9" | 0xA#4 => "A" | 0xB#4 => "B" | 0xC#4 => "C" | 0xD#4 => "D" | 0xE#4 => "E" | _ => "F"

/-- `Vx`: V0 to VF. -/
def asmReg (x : Reg) : String := "V" ++ hexDigit x

/-- `byte`: 0x00 to 0xFF. -/
def asmByte (nn : Byte) : String := "0x" ++ hexDigit (nn.extractLsb' 4 4) ++ hexDigit (nn.extractLsb' 0 4)

/-- `addr`: 0x000 to 0xFFF. -/
def asmAddr (nnn : Addr12) : String :=
  "0x" ++ hexDigit (nnn.extractLsb' 8 4) ++ hexDigit (nnn.extractLsb' 4 4) ++ hexDigit (nnn.extractLsb' 0 4)

/-- `nibble`: 0 to 15, in decimal. -/
def asmNibble (n : BitVec 4) : String :=
  if n.toNat < 10 then hexDigit n else "1" ++ hexDigit (n - 10)

/-- The assembly text of an instruction (the table of 30_encoding R90). -/
def assembly : Instr → String
  | .cls => "CLS"
  | .ret => "RET"
  | .jp nnn => "JP " ++ asmAddr nnn
  | .call nnn => "CALL " ++ asmAddr nnn
  | .seImm x nn => "SE " ++ asmReg x ++ ", " ++ asmByte nn
  | .sneImm x nn => "SNE " ++ asmReg x ++ ", " ++ asmByte nn
  | .seReg x y => "SE " ++ asmReg x ++ ", " ++ asmReg y
  | .ldImm x nn => "LD " ++ asmReg x ++ ", " ++ asmByte nn
  | .addImm x nn => "ADD " ++ asmReg x ++ ", " ++ asmByte nn
  | .ldReg x y => "LD " ++ asmReg x ++ ", " ++ asmReg y
  | .or x y => "OR " ++ asmReg x ++ ", " ++ asmReg y
  | .and x y => "AND " ++ asmReg x ++ ", " ++ asmReg y
  | .xor x y => "XOR " ++ asmReg x ++ ", " ++ asmReg y
  | .addReg x y => "ADD " ++ asmReg x ++ ", " ++ asmReg y
  | .sub x y => "SUB " ++ asmReg x ++ ", " ++ asmReg y
  | .shr x y => "SHR " ++ asmReg x ++ ", " ++ asmReg y
  | .subn x y => "SUBN " ++ asmReg x ++ ", " ++ asmReg y
  | .shl x y => "SHL " ++ asmReg x ++ ", " ++ asmReg y
  | .sneReg x y => "SNE " ++ asmReg x ++ ", " ++ asmReg y
  | .ldI nnn => "LD I, " ++ asmAddr nnn
  | .jpV0 nnn => "JP V0, " ++ asmAddr nnn
  | .rnd x nn => "RND " ++ asmReg x ++ ", " ++ asmByte nn
  | .drw x y n => "DRW " ++ asmReg x ++ ", " ++ asmReg y ++ ", " ++ asmNibble n
  | .skp x => "SKP " ++ asmReg x
  | .sknp x => "SKNP " ++ asmReg x
  | .ldVxDt x => "LD " ++ asmReg x ++ ", DT"
  | .ldVxK x => "LD " ++ asmReg x ++ ", K"
  | .ldDtVx x => "LD DT, " ++ asmReg x
  | .ldStVx x => "LD ST, " ++ asmReg x
  | .addI x => "ADD I, " ++ asmReg x
  | .ldF x => "LD F, " ++ asmReg x
  | .ldB x => "LD B, " ++ asmReg x
  | .ldMemVx x => "LD [I], " ++ asmReg x
  | .ldVxMem x => "LD " ++ asmReg x ++ ", [I]"

end Sys2Proof.Machine
end

