-- ==== Sys2Proof/Tests/Slice0.lean ====
section
/-! SUPPORT. The model's own tests. Expected results are the vectors of 95_test_vectors.md and the examples of the rules;
words are written out from the patterns of 30_encoding R80. Each step test stores one word at pc = 0x300 (the convention of
95) and takes one step. At the end, a witness for the hypotheses of each statement that has some. -/

namespace Sys2Proof.Tests

open Sys2Proof.Machine

/-- The state after reset with pc = 0x300. -/
def base : State := { State.reset with pc := 0x300 }

/-- `base` with V[x] = v. -/
def with1 (x : Reg) (v : Byte) : State := base.setV x v

/-- `base` with two registers set. -/
def with2 (x : Reg) (v : Byte) (y : Reg) (w : Byte) : State := (base.setV x v).setV y w

/-- `base` with three registers set. -/
def with3 (x : Reg) (v : Byte) (y : Reg) (w : Byte) (z : Reg) (u : Byte) : State := ((base.setV x v).setV y w).setV z u

/-- SHIFT_BY_ONE = true. -/
def byOne (s : State) : State := { s with params := { s.params with shiftByOne := true } }

/-- What `f` reads from the next state of a step that runs the word `w`. -/
def ran {α : Type} (s : State) (w : Nat) (f : State → α) : Option α :=
  match step (s.withFetchWord 16 w) with
  | .next t => some (f t)
  | .fault _ => none
  | .refused _ => none

/-- Vx and VF after a step. -/
def xf (x : Reg) (t : State) : Byte × Byte := (t.getV x, t.getV vf)

/-! ## Decoding, by words written out from 30_encoding R80 -/

theorem test_decode_control :
    decode 0x00E0 = .ok .cls ∧ decode 0x00EE = .ok .ret ∧ decode 0x1206 = .ok (.jp 0x206) ∧
    decode 0x2210 = .ok (.call 0x210) ∧ decode 0x3A8B = .ok (.seImm 0xA 0x8B) ∧ decode 0x4205 = .ok (.sneImm 2 0x05) ∧
    decode 0x5120 = .ok (.seReg 1 2) ∧ decode 0x5121 = .ok (.seReg 1 2) ∧ decode 0x9120 = .ok (.sneReg 1 2) ∧
    decode 0x9123 = .ok (.sneReg 1 2) ∧ decode 0xBFFF = .ok (.jpV0 0xFFF) := by decide

theorem test_decode_alu :
    decode 0x6A8B = .ok (.ldImm 0xA 0x8B) ∧ decode 0x7303 = .ok (.addImm 3 0x03) ∧ decode 0x8AB0 = .ok (.ldReg 0xA 0xB) ∧
    decode 0x8011 = .ok (.or 0 1) ∧ decode 0x8012 = .ok (.and 0 1) ∧ decode 0x8013 = .ok (.xor 0 1) ∧
    decode 0x8014 = .ok (.addReg 0 1) ∧ decode 0x8015 = .ok (.sub 0 1) ∧ decode 0x8126 = .ok (.shr 1 2) ∧
    decode 0x8017 = .ok (.subn 0 1) ∧ decode 0x812E = .ok (.shl 1 2) := by decide

theorem test_decode_index_display_timers :
    decode 0xA300 = .ok (.ldI 0x300) ∧ decode 0xC50F = .ok (.rnd 5 0x0F) ∧ decode 0xDAB0 = .ok (.drw 0xA 0xB 0) ∧
    decode 0xE19E = .ok (.skp 1) ∧ decode 0xE3A1 = .ok (.sknp 3) ∧ decode 0xF307 = .ok (.ldVxDt 3) ∧
    decode 0xF50A = .ok (.ldVxK 5) ∧ decode 0xF315 = .ok (.ldDtVx 3) ∧ decode 0xF418 = .ok (.ldStVx 4) ∧
    decode 0xF21E = .ok (.addI 2) ∧ decode 0xF029 = .ok (.ldF 0) ∧ decode 0xF333 = .ok (.ldB 3) ∧
    decode 0xF555 = .ok (.ldMemVx 5) ∧ decode 0xF565 = .ok (.ldVxMem 5) := by decide

/-- The illegal words of 95 (L2, Decoder), one or more of each class of 30_encoding R75. -/
theorem test_decode_rejects_by_name :
    decode 0x0000 = .error (.machineSubroutine 0x0000) ∧ decode 0x0123 = .error (.machineSubroutine 0x0123) ∧
    decode 0x00E1 = .error (.machineSubroutine 0x00E1) ∧ decode 0x8128 = .error (.undefinedAlu 0x8128) ∧
    decode 0x800F = .error (.undefinedAlu 0x800F) ∧ decode 0xE19F = .error (.undefinedKey 0xE19F) ∧
    decode 0xE0A0 = .error (.undefinedKey 0xE0A0) ∧ decode 0xF100 = .error (.undefinedMisc 0xF100) ∧
    decode 0xF1FF = .error (.undefinedMisc 0xF1FF) ∧ decodeBytes [0x61] = .error .truncated := by decide

theorem test_encode_words :
    encode (.jp 0x206) = 0x1206 ∧ encode (.ldImm 0xA 0x8B) = 0x6A8B ∧ encode (.shl 1 2) = 0x812E ∧
    encode (.drw 1 2 5) = 0xD125 ∧ encode (.sneReg 1 2) = 0x9120 ∧ encode (.ldVxMem 5) = 0xF565 := by decide

theorem test_decodeTableWord : decodeTableWord 16 0x8AB4 = some (.addReg 0xA 0xB) ∧ decodeTableWord 16 0x0000 = none := by decide

/-- Well-formedness refuses nothing: every operand's range is its type (30_encoding R78), so an ill-formed term does not
exist; the smoke test shows the extreme operands accepted. -/
theorem test_wellFormed_extremes :
    (Instr.drw 0xF 0xF 0xF).wellFormed = true ∧ (Instr.jp 0xFFF).wellFormed = true ∧
    (Instr.ldImm 0xF 0xFF).wellFormed = true ∧ (Instr.drw 0 0 0).wellFormed = true := by decide

/-- Lines of 95 P1 to P3, as assembled there. -/
theorem test_assembly : assembly (.ldImm 1 0x05) = "LD V1, 0x05" ∧ assembly (.jp 0x206) = "JP 0x206" ∧
    assembly (.drw 1 2 5) = "DRW V1, V2, 5" ∧ assembly (.ldVxMem 2) = "LD V2, [I]" := by decide

/-! ## Control flow (95 L2) -/

theorem test_ret : ran { base with pc := 0x212, sp := 1, stack := State.reset.stack.set 0 0x204 } 0x00EE
    (fun t => (t.pc, t.sp)) = some (0x206, 0) := by decide

theorem test_ret_empty : ran { base with pc := 0x204 } 0x00EE (fun t => (t.pc, t.fault)) =
    some (0x204, some .stackUnderflow) := by decide

theorem test_jp : ran { base with pc := 0x20C } 0x1206 (·.pc) = some 0x206 := by decide

theorem test_call : ran { base with pc := 0x204 } 0x2210 (fun t => (t.pc, t.sp, t.stack[0])) =
    some (0x210, 1, 0x204) := by decide

theorem test_call_full : ran { base with sp := 16 } 0x2210 (fun t => (t.pc, t.sp, t.fault)) =
    some (0x300, 16, some .stackOverflow) := by decide

theorem test_seImm : ran { base with pc := 0x20A } 0x3100 (·.pc) = some 0x20E ∧
    ran { base with pc := 0x20A } 0x3101 (·.pc) = some 0x20C := by decide

theorem test_seImm_vf : ran (with1 vf 0x01) 0x3F01 (·.pc) = some 0x304 := by decide

theorem test_sneImm : ran (with1 2 0x05) 0x4205 (·.pc) = some 0x302 ∧ ran (with1 2 0x05) 0x4206 (·.pc) = some 0x304 := by
  decide

theorem test_seReg : ran (with2 1 0x33 2 0x33) 0x5121 (·.pc) = some 0x304 ∧ ran (with1 1 0x33) 0x5120 (·.pc) = some 0x302 := by
  decide

theorem test_sneReg : ran (with2 1 0x01 2 0x02) 0x9120 (·.pc) = some 0x304 ∧ ran (with1 1 0x33) 0x9110 (·.pc) = some 0x302 := by
  decide

theorem test_jpV0 : ran (with1 0 0xFF) 0xBFFF (·.pc) = some 0x10FE ∧ ran base 0xB201 (·.pc) = some 0x201 := by decide

/-! ## Register load and ALU (95 L2) -/

theorem test_ldImm : ran base 0x6A8B (xf 0xA) = some (0x8B, 0x00) ∧ ran base 0x6F12 (xf 0) = some (0x00, 0x12) := by decide

theorem test_addImm : ran (with2 3 0xFE vf 0x55) 0x7303 (xf 3) = some (0x01, 0x55) := by decide

theorem test_ldReg : ran (with1 1 0x42) 0x8010 (xf 0) = some (0x42, 0x00) := by decide

theorem test_or : ran (with3 0 0xF0 1 0x0F vf 0x07) 0x8011 (xf 0) = some (0xFF, 0x07) ∧
    ran (with2 vf 0x01 0 0x80) 0x8F01 (xf 0) = some (0x80, 0x81) := by decide

theorem test_and : ran (with3 0 0xF0 1 0x3C vf 0x07) 0x8012 (xf 0) = some (0x30, 0x07) := by decide

theorem test_xor : ran (with3 0 0xFF 1 0x0F vf 0x07) 0x8013 (xf 0) = some (0xF0, 0x07) := by decide

/-- W2, then the carries of 95 L2. -/
theorem test_addReg : ran (with2 0 252 1 2) 0x8014 (xf 0) = some (254, 0) ∧ ran (with2 0 254 1 2) 0x8014 (xf 0) = some (0, 1) := by
  decide

theorem test_addReg_vf : ran (with1 vf 0x80) 0x8FF4 (xf vf) = some (0x01, 0x01) ∧
    ran (with2 0 0x10 vf 0x01) 0x80F4 (xf 0) = some (0x11, 0x00) := by decide

theorem test_sub : ran (with2 0 0x03 1 0x05) 0x8015 (xf 0) = some (0xFE, 0x00) ∧
    ran (with2 0 0x05 1 0x05) 0x8015 (xf 0) = some (0x00, 0x01) := by decide

theorem test_sub_vf : ran (with2 vf 0x10 0 0x20) 0x8F05 (xf vf) = some (0x00, 0x00) := by decide

theorem test_shr : ran (with2 1 0xFF 2 0x03) 0x8126 (xf 1) = some (0x1F, 0x01) ∧
    ran (with2 1 0xFF 2 0x08) 0x8126 (xf 1) = some (0x00, 0x01) := by decide

theorem test_shr_byOne : ran (byOne (with2 1 0x05 2 0x07)) 0x8126 (xf 1) = some (0x02, 0x01) := by decide

theorem test_subn : ran (with2 0 0x03 1 0x05) 0x8017 (xf 0) = some (0x02, 0x01) ∧
    ran (with2 0 0x05 1 0x03) 0x8017 (xf 0) = some (0xFE, 0x00) := by decide

theorem test_shl : ran (with2 1 0x0F 2 0x04) 0x812E (xf 1) = some (0xF0, 0x00) ∧
    ran (with1 1 0x03) 0x811E (xf 1) = some (0x18, 0x00) := by decide

theorem test_shl_byOne : ran (byOne (with2 1 0x40 2 0x05)) 0x812E (xf 1) = some (0x80, 0x00) := by decide

/-! ## Index register and memory (95 L2, W5, W6) -/

theorem test_ldI : ran base 0xA300 (·.i) = some 0x300 := by decide

theorem test_addI : ran { with1 2 0x01 with i := 0xFFFF } 0xF21E (·.i) = some 0x0000 ∧
    ran { with1 2 0x01 with i := 0x0FFF } 0xF21E (fun t => (t.i, t.fault)) = some (0x1000, none) := by decide

theorem test_ldF : ran (with1 0 0x1A) 0xF029 (·.i) = some 0x032 ∧ ran (with1 1 0xFF) 0xF129 (·.i) = some 0x04B := by decide

theorem test_ldB : ran { with1 3 139 with i := 0x900 } 0xF333 (fun t => (t.peek 0x900, t.peek 0x901, t.peek 0x902, t.i)) =
    some (1, 3, 9, 0x900) := by decide

theorem test_ldB_fault : ran { with1 3 139 with i := 0xFFE } 0xF333 (fun t => (t.fault, t.peek 0xFFE, t.pc)) =
    some (some (.memoryOutOfBounds 0x1000), 0, 0x300) := by decide

theorem test_ldMemVx : ran { with2 0 0x63 1 0x62 with i := 0x900 } 0xF155
    (fun t => (t.peek 0x900, t.peek 0x901, t.peek 0x902, t.i)) = some (0x63, 0x62, 0, 0x902) := by decide

theorem test_ldMemVx_end : ran { with1 vf 0xAA with i := 0xFF0 } 0xFF55 (fun t => (t.peek 0xFFF, t.i)) =
    some (0xAA, 0x1000) := by decide

theorem test_ldVxMem : ran { (base.poke 0x900 0x63).poke 0x901 0x62 with i := 0x900 } 0xF165
    (fun t => (t.getV 0, t.getV 1, t.getV 2, t.i)) = some (0x63, 0x62, 0, 0x902) := by decide

theorem test_ldVxMem_fault : ran { base with i := 0x2345 } 0xF065 (·.fault) = some (some (.memoryOutOfBounds 0x2345)) := by
  decide

/-! ## Framebuffer (95 L2) -/

theorem test_cls : ran { base with fb := Framebuffer.flip Framebuffer.clear 63 31 } 0x00E0
    (fun t => (Framebuffer.cell t.fb 63 31, t.pc)) = some (false, 0x302) := by decide

theorem test_drw_wraps : ran { (with2 0 62 1 31).poke 0x500 0xFF with i := 0x500 } 0xD011
    (fun t => (Framebuffer.cell t.fb 62 31, Framebuffer.cell t.fb 63 31, Framebuffer.cell t.fb 0 31, Framebuffer.cell t.fb 5 31,
      Framebuffer.cell t.fb 6 31, t.getV vf)) = some (true, true, true, true, false, 0) := by decide

/-- A collision; VF as a coordinate is its value from before the step (0xDF01); n = 0 draws nothing and clears VF. -/
theorem test_drw_collides : ran { base.poke 0x500 0xC0 with i := 0x500, fb := Framebuffer.flip Framebuffer.clear 0 0 } 0xD011
    (fun t => (Framebuffer.cell t.fb 0 0, Framebuffer.cell t.fb 1 0, t.getV vf)) = some (false, true, 1) ∧
    ran { (with2 vf 3 0 4).poke 0x500 0x80 with i := 0x500 } 0xDF01 (fun t => (Framebuffer.cell t.fb 3 4, t.getV vf)) =
      some (true, 0) ∧
    ran { with1 vf 7 with i := 0x019 } 0xD120 (fun t => (decide (t.fb = Framebuffer.clear), t.getV vf)) = some (true, 0) := by
  decide

/-! ## Timers, random, keypad (95 L2) -/

theorem test_ldVxDt : ran { base with dt := 0x3C } 0xF307 (fun t => (t.getV 3, t.dt)) = some (0x3C, 0x3C) := by decide

theorem test_ldDtVx : ran (with1 3 0x3C) 0xF315 (fun t => (t.dt, t.st)) = some (0x3C, 0) := by decide

theorem test_ldStVx : ran (with1 4 0x05) 0xF418 (fun t => (t.dt, t.st)) = some (0, 0x05) := by decide

/-- rand = 0xAB, whichever draw it is, gives V5 = 0x0B under the mask 0x0F. -/
theorem test_rnd (h : Config.freeRand 0 = 0xAB) : ran base 0xC50F (·.getV 5) = some 0x0B := by
  have : ran base 0xC50F (·.getV 5) = some (Config.freeRand 0 &&& 0x0F) := by rfl
  rw [this, h]; decide

theorem test_rnd_consumes_one : ran base 0xC500 (fun t => t.draws) = some 1 := by rfl

theorem test_skp : ran { base with pc := 0x240 } 0xE19E (fun t => (t.fault, t.pc)) =
    some (some (.unsupportedWithoutInputCollaborator 0xE19E), 0x240) := by decide

theorem test_sknp : ran base 0xE3A1 (·.fault) = some (some (.unsupportedWithoutInputCollaborator 0xE3A1)) := by decide

theorem test_ldVxK : ran base 0xF50A (fun t => (t.fault, t.getV 5)) =
    some (some (.unsupportedWithoutInputCollaborator 0xF50A), 0) := by decide

/-! ## The step, the host's transactions, the framebuffer's index (95 L2, W9) -/

/-- The fetch rows of 95: the last word of memory, and pc beyond it. -/
theorem test_fetch_bounds :
    ({ base with pc := 0xFFE } : State).doStep.fault = some (.decodeFailure 0x0000) ∧
    ({ base with pc := 0xFFF } : State).doStep.fault = some (.memoryOutOfBounds 0x1000) ∧
    ({ base with pc := 0x10FE } : State).doStep.fault = some (.memoryOutOfBounds 0x10FE) := by decide

/-- W9: the linear index of a cell. -/
theorem test_framebuffer_index : Framebuffer.linear (Framebuffer.flip Framebuffer.clear 10 20) 1290 = true ∧
    Framebuffer.linear (Framebuffer.flip Framebuffer.clear 63 31) 2047 = true ∧
    Framebuffer.linear (Framebuffer.flip Framebuffer.clear 0 1) 64 = true := by decide

/-- An odd pc fetches like an even one. -/
theorem test_fetch_odd : ran { base with pc := 0x201 } 0x6007 (fun t => (t.getV 0, t.pc)) = some (0x07, 0x203) := by decide

theorem test_tick : ({ base with dt := 0x01, st := 0x00 } : State).tick.dt = 0x00 ∧
    ({ base with dt := 0x00, st := 0x02 } : State).tick.st = 0x01 ∧ ({ base with dt := 0x00 } : State).tick.dt = 0x00 := by
  decide

/-- LOAD of 61 (1 byte), then a STEP: opcode 0x6100. -/
theorem test_load_odd : ((State.reset.after (.load [0x61])).doStep.pc, (State.reset.after (.load [0x61])).doStep.fault) =
    (0x202, none) := by decide

theorem test_reset_font : (State.reset.peek 0x000, State.reset.peek 0x019, State.reset.peek 0x04F, State.reset.peek 0x050) =
    (0xF0, 0xF0, 0x80, 0x00) := by decide

/-! ## Witnesses: hypotheses of the statements, met together -/

theorem witness_wellFormed : Instr.wellFormed (.drw 0xF 0 0) = true := rfl

theorem witness_decodedWord : decode 0x6A8B = .ok (.ldImm 0xA 0x8B) ∧ decode 0x512F = .ok (.seReg 1 2) ∧
    (0x6A8B#16).toNat / 4096 ≠ 5 ∧ (0x512F#16).toNat / 4096 = 5 := by decide

/-- The last place a word can be fetched from. -/
def atEnd : State := ({ State.reset with pc := 0xFFE } : State).withFetchWord 16 0x6A8B

theorem witness_stepRuns : atEnd.fault = none ∧ atEnd.pc.toNat + 1 ≤ 0xFFF ∧
    decodeBytes [atEnd.peek atEnd.pc.toNat, atEnd.peek (atEnd.pc.toNat + 1)] = .ok (.ldImm 0xA 0x8B, []) ∧
    Instr.wellFormed (.ldImm 0xA 0x8B) = true := by decide

theorem witness_fetchBeyond : ({ base with pc := 0xFFF } : State).fault = none ∧
    ({ base with pc := 0xFFF } : State).pc.toNat + 1 > 0xFFF := by decide

theorem witness_undecodable : State.reset.fault = none ∧ fetch State.reset = .ok 0x0000 ∧
    decode 0x0000 = .error (.machineSubroutine 0x0000) ∧ State.reset.pc.toNat + 1 ≤ 0xFFF := by decide

theorem witness_latched : ({ base with fault := some .stackOverflow } : State).fault = some .stackOverflow ∧
    ∀ t ∈ [Transaction.step, .tick, .load [1], .readState], t ≠ .reset := by decide

theorem witness_faultingStep : ∃ t, step State.reset = .next t ∧ t.fault = some (.decodeFailure 0x0000) := ⟨_, rfl, rfl⟩

theorem witness_retiringStep : ∃ t, step atEnd = .next t ∧ t.fault = none ∧
    (∀ op x, fetch atEnd = .ok op → decode op ≠ .ok (.ldDtVx x) ∧ decode op ≠ .ok (.ldStVx x)) := by
  refine ⟨_, rfl, rfl, ?_⟩
  intro op x h
  have : fetch atEnd = .ok 0x6A8B := by decide
  rw [this] at h
  cases h
  rw [show decode 0x6A8B = .ok (.ldImm 0xA 0x8B) by decide]
  exact ⟨by simp, by simp⟩

/-- Every fault an instruction raises, at the boundary of its check, and just inside it. -/
theorem witness_raises :
    raises .ret base = some .stackUnderflow ∧ raises .ret { base with sp := 1 } = none ∧
    raises (.call 0) { base with sp := 16 } = some .stackOverflow ∧ raises (.call 0) { base with sp := 15 } = none ∧
    raises (.drw 0 0 2) { base with i := 0xFFF } = some (.memoryOutOfBounds 0x1000) ∧
    raises (.drw 0 0 1) { base with i := 0xFFF } = none ∧ raises (.drw 0 0 0) { base with i := 0xFFFF } = none ∧
    raises (.ldB 0) { base with i := 0xFFE } = some (.memoryOutOfBounds 0x1000) ∧
    raises (.ldB 0) { base with i := 0xFFD } = none ∧
    raises (.ldMemVx 0xF) { base with i := 0xFF1 } = some (.memoryOutOfBounds 0x1000) ∧
    raises (.ldMemVx 0xF) { base with i := 0xFF0 } = none ∧
    raises (.ldVxMem 0) { base with i := 0x1000 } = some (.memoryOutOfBounds 0x1000) ∧
    raises (.ldVxMem 0) { base with i := 0xFFF } = none ∧
    raises (.skp 1) base = some (.unsupportedWithoutInputCollaborator 0xE19E) := by decide

theorem witness_inv : State.Inv base where
  memWf := by rfl
  pcBound := by decide
  stackBound := by decide

theorem witness_completes : raises .cls base = none ∧ ∃ t, exec .cls base = .next t := ⟨rfl, _, rfl⟩

theorem witness_equalMemories : Memory.wf defaultFont [(0x10, 0x33), (0x300, 0x01)] = true ∧
    ∀ a, Memory.read defaultFont [(0x10, 0x33), (0x300, 0x01)] a = Memory.read defaultFont [(0x10, 0x33), (0x300, 0x01)] a :=
  ⟨by decide, fun _ => rfl⟩

/-- Ill-formed memories, refused: out of order, a repeat, an address outside memory, an entry that reads as unlisted. -/
theorem test_memory_wf_refuses : Memory.wf defaultFont [(0x301, 1), (0x300, 1)] = false ∧
    Memory.wf defaultFont [(0x300, 1), (0x300, 2)] = false ∧ Memory.wf defaultFont [(0x1000, 1)] = false ∧
    Memory.wf defaultFont [(0x000, 0xF0)] = false := by decide

theorem witness_sameFont : State.reset.params.fontData = (byOne { base with dt := 7 }).params.fontData := rfl

theorem witness_imageSizes : 3584 < (List.replicate 3585 (0 : Byte)).length ∧ (List.replicate 3584 (0 : Byte)).length ≤ 3584 ∧
    0 < ([0x61] : List Byte).length ∧ ([0x61] : List Byte).length % 2 = 1 := by
  rw [List.length_replicate, List.length_replicate]; decide

theorem witness_stackBounds : ({ base with sp := 15 } : State).sp.val < 16 ∧ ({ base with sp := 16 } : State).sp.val = 16 ∧
    0 < ({ base with sp := 1 } : State).sp.val ∧ base.sp.val = 0 := by decide

theorem witness_skips : (with1 1 0x33).getV 1 = 0x33 ∧ (with1 1 0x33).getV 1 ≠ 0x34 ∧
    (with1 1 0x33).getV 1 = (with1 1 0x33).getV 1 ∧ (with1 1 0x33).getV 1 ≠ (with1 1 0x33).getV 2 := by decide

/-- JP 0x208 at 0x208 (95 P2). -/
theorem witness_selfLoop : State.atSelfLoop (({ State.reset with pc := 0x208 } : State).withFetchWord 16 0x1208) :=
  ⟨0x208, by decide, by decide +kernel, by decide +kernel⟩

theorem witness_vf : (0 : Reg) ≠ vf ∧ (0xE : Reg) ≠ vf := by decide

theorem witness_shiftAmount : (3 : Nat) = (if (with1 2 0x03).params.shiftByOne = true then 1 else ((with1 2 0x03).getV 2).toNat) ∧
    (1 : Nat) = (if (byOne (with1 2 0x03)).params.shiftByOne = true then 1 else ((byOne (with1 2 0x03)).getV 2).toNat) := by
  decide

/-- The last places an access through I fits, and the first it does not. -/
theorem witness_accessBounds : (0xFFD#16).toNat + 2 ≤ 0xFFF ∧ (0xFFE#16).toNat + 2 > 0xFFF ∧
    (0xFF0#16).toNat + (0xF#4).toNat ≤ 0xFFF ∧ (0xFF1#16).toNat + (0xF#4).toNat > 0xFFF ∧
    (0xFFF#16).toNat + (1#4).toNat - 1 ≤ 0xFFF ∧ 0 < (2#4).toNat ∧ (0xFFF#16).toNat + (2#4).toNat - 1 > 0xFFF ∧
    (0#4).toNat = 0 := by decide

theorem witness_storedWord : 1 ≤ (1#4).toNat ∧ (0x302#16).toNat = base.pc.toNat + 2 ∧ (0x302#16).toNat + (1#4).toNat ≤ 0xFFF := by
  decide

/-- A sprite that covers a set cell, and a cell it does not cover. -/
def drawable : State := { base.poke 0x500 0x80 with i := 0x500, fb := Framebuffer.flip Framebuffer.clear 0 0 }

theorem witness_spriteCovers : drawable.spriteCovers 0 1 (1#4).toNat 0 0 ∧ Framebuffer.cell drawable.fb 0 0 = true ∧
    ¬ drawable.spriteCovers 0 1 (1#4).toNat 1 0 :=
  ⟨⟨0, by decide, 0, by decide, by decide, by decide +kernel, by decide +kernel⟩, by decide +kernel, by
    rintro ⟨r, hr, c, hc, hb, hu, hw⟩
    have : ∀ c, c < 8 → (drawable.peek (indexAddress drawable 0)).getLsbD (7 - c) = true →
        (1 : Nat) ≠ ((drawable.getV 0).toNat + c) % 64 := by decide
    have hr0 : r = 0 := by simp at hr; omega
    subst hr0
    exact this c hc hb hu⟩

theorem witness_masks : (0x00 : Byte) = 0 ∧ (0xFF : Byte) = 0xFF := ⟨rfl, rfl⟩

theorem witness_bystanders : (∀ nnn, Instr.cls ≠ .call nnn) ∧ Instr.cls ≠ .ret ∧ (∀ x, Instr.cls ≠ .ldStVx x) ∧
    (∀ x, Instr.cls ≠ .ldVxDt x) ∧ (∀ x, Instr.cls ≠ .ldDtVx x) ∧ (∀ x nn, Instr.cls ≠ .rnd x nn) ∧
    (∀ x y n, Instr.ret ≠ .drw x y n) ∧ Instr.ret ≠ .cls := by simp

end Sys2Proof.Tests
end

/-! ## Proofs: what no register, index or memory instruction touches

Eight instructions touch the stack, the framebuffer, the timers or the random source. Every other one leaves them as they
are and does the same to the rest of the state whatever they hold. -/

namespace Sys2Proof.Machine

/-- The pieces of state that stand apart from registers, I, pc, memory, the latch and the parameters. -/
structure Bystanders where
  stack : Vector Word 16
  sp : Fin 17
  fb : Framebuffer
  dt : Byte
  st : Byte
  draws : Nat

/-- The bystanders a state holds. -/
def State.bystanders (s : State) : Bystanders :=
  { stack := s.stack, sp := s.sp, fb := s.fb, dt := s.dt, st := s.st, draws := s.draws }

/-- The state with other bystanders. -/
def State.withBystanders (s : State) (b : Bystanders) : State :=
  { s with stack := b.stack, sp := b.sp, fb := b.fb, dt := b.dt, st := b.st, draws := b.draws }

/-- The instruction completes or faults alike under any bystanders, and passes them on. -/
def IgnoresBystanders (i : Instr) : Prop :=
  ∀ s : State, ∃ t, exec i s = .next t ∧ ∀ b, exec i (s.withBystanders b) = .next (t.withBystanders b)

theorem withBystanders_bystanders (s : State) : s.withBystanders s.bystanders = s := rfl

theorem bystanders_withBystanders (s : State) (b : Bystanders) : (s.withBystanders b).bystanders = b := rfl

/-- An instruction that ignores the bystanders leaves them: give it the ones the state already holds. -/
theorem IgnoresBystanders.next {i : Instr} (hi : IgnoresBystanders i) (s : State) :
    ∃ t, exec i s = .next t ∧ t.bystanders = s.bystanders ∧
      ∀ b, exec i (s.withBystanders b) = .next (t.withBystanders b) := by
  obtain ⟨t, hs, hb⟩ := hi s
  have ht : t = t.withBystanders s.bystanders := by
    have h := hb s.bystanders
    rw [withBystanders_bystanders, hs] at h
    exact Host.Outcome.next.inj h
  exact ⟨t, hs, by rw [ht, bystanders_withBystanders], hb⟩

theorem pokeBytes_withBystanders (s : State) (a : Nat) (bs : List Byte) (b : Bystanders) :
    (s.withBystanders b).pokeBytes a bs = (s.pokeBytes a bs).withBystanders b :=
  pokeBytes_bystanders bs s a b.stack b.sp b.fb b.dt b.st b.draws

theorem setRegisters_withBystanders (s : State) (k : Nat) (bs : List Byte) (b : Bystanders) :
    setRegisters (s.withBystanders b) k bs = (setRegisters s k bs).withBystanders b :=
  setRegisters_bystanders bs s k b.stack b.sp b.fb b.dt b.st b.draws

theorem ignoresBystanders_ldB (x : Reg) : IgnoresBystanders (.ldB x) := fun s => by
  by_cases h : s.i.toNat + 3 ≤ memorySize
  · refine ⟨_, execLdB_ok s x h, fun b => (execLdB_ok (s.withBystanders b) x h).trans ?_⟩
    rw [pokeBytes_withBystanders]; rfl
  · exact ⟨_, execLdB_fault s x (by omega), fun b => execLdB_fault (s.withBystanders b) x (Nat.lt_of_not_le h)⟩

theorem ignoresBystanders_ldMemVx (x : Reg) : IgnoresBystanders (.ldMemVx x) := fun s => by
  by_cases h : s.i.toNat + blockLength x ≤ memorySize
  · refine ⟨_, execLdMemVx_ok s x h, fun b => (execLdMemVx_ok (s.withBystanders b) x h).trans ?_⟩
    rw [pokeBytes_withBystanders]; rfl
  · exact ⟨_, execLdMemVx_fault s x (by omega), fun b => execLdMemVx_fault (s.withBystanders b) x (Nat.lt_of_not_le h)⟩

theorem ignoresBystanders_ldVxMem (x : Reg) : IgnoresBystanders (.ldVxMem x) := fun s => by
  by_cases h : s.i.toNat + blockLength x ≤ memorySize
  · refine ⟨_, execLdVxMem_ok s x h, fun b => (execLdVxMem_ok (s.withBystanders b) x h).trans ?_⟩
    rw [setRegisters_withBystanders]; rfl
  · exact ⟨_, execLdVxMem_fault s x (by omega), fun b => execLdVxMem_fault (s.withBystanders b) x (Nat.lt_of_not_le h)⟩

/-- Only eight instructions touch a bystander: CLS and DRW, CALL and RET, the three of the timers, and RND. -/
theorem ignoresBystanders_or (i : Instr) :
    IgnoresBystanders i ∨ i = .cls ∨ (∃ x y n, i = .drw x y n) ∨ (∃ nnn, i = .call nnn) ∨ i = .ret ∨
      (∃ x, i = .ldVxDt x) ∨ (∃ x, i = .ldDtVx x) ∨ (∃ x, i = .ldStVx x) ∨ ∃ x nn, i = .rnd x nn := by
  cases i with
  | cls | drw | call | ret | ldVxDt | ldDtVx | ldStVx | rnd => simp
  | ldB x => exact .inl (ignoresBystanders_ldB x)
  | ldMemVx x => exact .inl (ignoresBystanders_ldMemVx x)
  | ldVxMem x => exact .inl (ignoresBystanders_ldVxMem x)
  | _ => exact .inl fun _ => ⟨_, rfl, fun _ => rfl⟩

end Sys2Proof.Machine

/-! ## Proofs: the random source -/

namespace Sys2Proof.Machine

/-- The instruction leaves the count of draws and does the same to the rest of the state whatever it is. -/
def IgnoresDraws (i : Instr) : Prop :=
  ∀ (s : State) (draws' : Nat), ∃ t, exec i s = .next t ∧ t.draws = s.draws ∧
    exec i { s with draws := draws' } = .next { t with draws := draws' }

theorem IgnoresBystanders.ignoresDraws {i : Instr} (hi : IgnoresBystanders i) : IgnoresDraws i := fun s draws' => by
  obtain ⟨t, hs, ht, hb⟩ := hi.next s
  refine ⟨t, hs, congrArg Bystanders.draws ht, (hb { s.bystanders with draws := draws' }).trans ?_⟩
  rw [← ht]; rfl

theorem ignoresDraws_drw (x y : Reg) (n : BitVec 4) : IgnoresDraws (.drw x y n) := fun s draws' => by
  by_cases h : n.toNat = 0 ∨ s.i.toNat + n.toNat ≤ memorySize
  · exact ⟨_, execDrw_ok s x y n h, rfl, execDrw_ok { s with draws := draws' } x y n h⟩
  · have hout : n.toNat ≠ 0 ∧ memorySize < s.i.toNat + n.toNat := by omega
    exact ⟨_, execDrw_fault s x y n hout, rfl, execDrw_fault { s with draws := draws' } x y n hout⟩

theorem ignoresDraws_call (nnn : Addr12) : IgnoresDraws (.call nnn) := fun s draws' => by
  by_cases h : s.sp.val = 16
  · exact ⟨_, execCall_full s nnn h, rfl, execCall_full { s with draws := draws' } nnn h⟩
  · exact ⟨_, execCall_ok s nnn h, rfl, execCall_ok { s with draws := draws' } nnn h⟩

theorem ignoresDraws_ret : IgnoresDraws .ret := fun s draws' => by
  by_cases h : s.sp.val = 0
  · exact ⟨_, execRet_empty s h, rfl, execRet_empty { s with draws := draws' } h⟩
  · exact ⟨_, execRet_ok s h, rfl, execRet_ok { s with draws := draws' } h⟩

/-- Settles O57: RND aside, an instruction ignores all bystanders, or touches some that are not the count of draws. -/
theorem onlyRndReadsTheRandomSource : Obligations.OnlyRndReadsTheRandomSource := by
  intro i s draws' hrnd
  suffices h : IgnoresDraws i from h s draws'
  obtain h | rfl | ⟨x, y, n, rfl⟩ | ⟨nnn, rfl⟩ | rfl | ⟨x, rfl⟩ | ⟨x, rfl⟩ | ⟨x, rfl⟩ | ⟨x, nn, rfl⟩ :=
    ignoresBystanders_or i
  · exact h.ignoresDraws
  · exact fun _ _ => ⟨_, rfl, rfl, rfl⟩
  · exact ignoresDraws_drw x y n
  · exact ignoresDraws_call nnn
  · exact ignoresDraws_ret
  · exact fun _ _ => ⟨_, rfl, rfl, rfl⟩
  · exact fun _ _ => ⟨_, rfl, rfl, rfl⟩
  · exact fun _ _ => ⟨_, rfl, rfl, rfl⟩
  · exact absurd rfl (hrnd x nn)

/-- The frame of RND: Vx, the count of draws and pc (45_timers_random R183). -/
theorem execRnd_changesOnly {s t : State} {x : Reg} {nn : Byte} (h : execRnd x nn s = .next t) :
    s.changesOnly t fun e => e = .v x ∨ e = .draws ∨ e = .pc := by
  cases h
  intro e he
  cases e with
  | v r =>
    have hr : r ≠ x := fun h => he (.inl (congrArg Element.v h))
    exact (State.getV_setV s x r _).trans (if_neg hr)
  | draws => exact absurd (.inr (.inl rfl)) he
  | pc => exact absurd (.inr (.inr rfl)) he
  | _ => rfl

/-- Settles O50: the two masks are special cases of Vx = rand AND nn. -/
theorem randomByteIsMaskedAndConsumedOnce : Obligations.RandomByteIsMaskedAndConsumedOnce := by
  intro s x nn
  obtain ⟨t, ht⟩ : ∃ t, execRnd x nn s = .next t := ⟨_, rfl⟩
  have hx : t.getV x = Config.freeRand s.draws &&& nn := by
    cases ht
    exact (State.getV_setV s x x _).trans (if_pos rfl)
  refine ⟨t, ht, hx, ?_, ?_, fun h0 => ?_, fun hFF => ?_, execRnd_changesOnly ht⟩
  · cases ht; rfl
  · cases ht; rfl
  · rw [hx, h0]; exact BitVec.and_zero
  · rw [hx, hFF]; exact BitVec.and_allOnes

end Sys2Proof.Machine

/-! ## Proofs: LOAD -/

namespace Sys2Proof.Machine

theorem load_oversize (s : State) {bytes : List Byte} (h : maxImage < bytes.length) : s.load bytes = none := if_pos h

theorem load_fits (s : State) {bytes : List Byte} (h : bytes.length ≤ maxImage) :
    s.load bytes = some (s.pokeBytes 0x200 bytes) := if_neg (Nat.not_lt.2 h)

/-- A block write puts its k-th byte at the k-th address. -/
theorem peek_pokeBytes_getElem (s : State) (a : Nat) (bs : List Byte) (k : Nat) (h : k < bs.length) :
    (s.pokeBytes a bs).peek (a + k) = bs[k] := by
  rw [peek_pokeBytes, if_pos (Nat.le_add_right a k), Nat.add_sub_cancel_left, List.getElem?_eq_getElem h, Option.getD_some]

/-- A block write leaves every byte outside its range. -/
theorem peek_pokeBytes_outside (s : State) (a : Nat) (bs : List Byte) (c : Nat) (h : ¬ (a ≤ c ∧ c < a + bs.length)) :
    (s.pokeBytes a bs).peek c = s.peek c := by
  rw [peek_pokeBytes]
  split
  · rw [List.getElem?_eq_none (by omega), Option.getD_none]
  · rfl

/-- The frame of a block write: the bytes of its range. -/
theorem pokeBytes_changesOnly (s : State) (a : Nat) (bs : List Byte) :
    s.changesOnly (s.pokeBytes a bs) fun e => ∃ c, e = .byte c ∧ a ≤ c ∧ c < a + bs.length := by
  intro e he
  cases e with
  | byte c => exact peek_pokeBytes_outside s a bs c fun h => he ⟨c, rfl, h⟩
  | _ => rw [pokeBytes_eq]; rfl

/-- Settles O23: LOAD is a block write from 0x200 where the image fits. -/
theorem loadPlacesTheImage : Obligations.LoadPlacesTheImage := by
  intro s bytes
  constructor
  · intro h
    have hload := load_oversize s h
    simp [State.answer, State.after, hload]
  · intro h
    have hload := load_fits s h
    refine ⟨_, hload, ?_, peek_pokeBytes_getElem s 0x200 bytes, pokeBytes_changesOnly s 0x200 bytes⟩
    simp [State.after, hload]

end Sys2Proof.Machine

/-! ## Proofs: the frame of each operation

What a write of the state leaves unchanged, one rule per operation. The frame of an instruction puts them together. -/

namespace Sys2Proof.Machine

/-- Two updates in turn change at most what either of them changes. -/
theorem State.changesOnly.andThen {s t u : State} {w w' : Element → Prop} (h : s.changesOnly t w) (h' : t.changesOnly u w') :
    s.changesOnly u fun e => w e ∨ w' e := fun e he => by
  have hst := h e fun hw => he (.inl hw)
  have htu := h' e fun hw => he (.inr hw)
  cases e <;> exact htu.trans hst

/-- A frame may be widened. -/
theorem State.changesOnly.mono {s t : State} {w w' : Element → Prop} (h : s.changesOnly t w) (hw : ∀ e, w e → w' e) :
    s.changesOnly t w' := fun e he => h e fun h => he (hw e h)

theorem jumpTo_changesOnly (s : State) (target : Word) : s.changesOnly (s.jumpTo target) (· = .pc) := fun e he => by
  cases e with
  | pc => exact absurd rfl he
  | _ => rfl

theorem skipIf_changesOnly (s : State) (taken : Bool) : s.changesOnly (s.skipIf taken) (· = .pc) :=
  jumpTo_changesOnly s _

theorem setI_changesOnly (s : State) (v : Word) : s.changesOnly (s.setI v) (· = .i) := fun e he => by
  cases e with
  | i => exact absurd rfl he
  | _ => rfl

theorem setV_changesOnly (s : State) (r : Reg) (v : Byte) : s.changesOnly (s.setV r v) (· = .v r) := fun e he => by
  cases e with
  | v q => exact (State.getV_setV s r q v).trans (if_neg fun h => he (congrArg Element.v h))
  | _ => rfl

theorem setResultThenFlag_changesOnly (s : State) (x : Reg) (v : Byte) (flag : Bool) :
    s.changesOnly (s.setResultThenFlag x v flag) fun e => e = .v x ∨ e = .v vf :=
  (setV_changesOnly s x v).andThen (setV_changesOnly (s.setV x v) vf _)

theorem setDt_changesOnly (s : State) (v : Byte) : s.changesOnly { s with dt := v } (· = .dt) := fun e he => by
  cases e with
  | dt => exact absurd rfl he
  | _ => rfl

theorem setSt_changesOnly (s : State) (v : Byte) : s.changesOnly { s with st := v } (· = .st) := fun e he => by
  cases e with
  | st => exact absurd rfl he
  | _ => rfl

theorem setSp_changesOnly (s : State) (n : Fin 17) : s.changesOnly { s with sp := n } (· = .sp) := fun e he => by
  cases e with
  | sp => exact absurd rfl he
  | _ => rfl

theorem setStack_changesOnly (s : State) (k : Fin 16) (v : Word) :
    s.changesOnly { s with stack := s.stack.set k v } (· = .stackEntry k) := fun e he => by
  cases e with
  | stackEntry j => exact Vector.getElem_set_ne k.isLt j.isLt fun h => he (congrArg Element.stackEntry (Fin.ext h.symm))
  | _ => rfl

/-- A new framebuffer changes at most the cells where it differs. -/
theorem setFb_changesOnly (s : State) (fb' : Framebuffer) (w : Fin 64 → Fin 32 → Prop)
    (hfb : ∀ x y, ¬ w x y → Framebuffer.cell fb' x y = Framebuffer.cell s.fb x y) :
    s.changesOnly { s with fb := fb' } fun e => ∃ x y, e = .cell x y ∧ w x y := fun e he => by
  cases e with
  | cell x y => exact hfb x y fun h => he ⟨x, y, rfl, h⟩
  | _ => rfl

/-- A block write to V0 on, of the length of a transfer with the field x, changes at most V0 to Vx (43_index_memory
R155). -/
theorem setRegisters_changesOnly (s : State) (x : Reg) (bs : List Byte) (hlen : bs.length = blockLength x) :
    s.changesOnly (setRegisters s 0 bs) fun e => ∃ r : Reg, e = .v r ∧ r.toNat ≤ x.toNat := fun e he => by
  cases e with
  | v q =>
    have hq : ¬ q.toNat ≤ x.toNat := fun h => he ⟨q, rfl, h⟩
    have hout : bs.length ≤ q.toNat := by unfold blockLength at hlen; omega
    have hfits : 0 + bs.length ≤ 16 := by have := blockLength_le x; omega
    change (setRegisters s 0 bs).getV q = s.getV q
    rw [getV_setRegisters bs s 0 hfits q, if_pos (Nat.zero_le _), Nat.sub_zero, List.getElem?_eq_none hout, Option.getD_none]
  | _ => rw [setRegisters_eq]; rfl

/-- The frame of a store through I: the bytes of its access. -/
theorem pokeBytes_index_changesOnly (s : State) (bs : List Byte) :
    s.changesOnly (s.pokeBytes s.i.toNat bs) fun e => ∃ a, e = .byte a ∧ s.inAccess bs.length a :=
  pokeBytes_changesOnly s s.i.toNat bs

end Sys2Proof.Machine

/-! ## Proofs: what a sprite does not cover -/

namespace Sys2Proof.Machine

/-- The bit of column c of the byte `b`, drawn at (`px`, `py`), reaches the cell (u, w) (44_display R171, R172). -/
def pixelReaches (b : Byte) (px py c : Nat) (u : Fin 64) (w : Fin 32) : Prop :=
  spriteBit b c = true ∧ u = wrapColumn (px + c) ∧ w = wrapRow py

theorem Canvas.cell_drawColumn_of_not_reaches {b : Byte} {px py c : Nat} {u : Fin 64} {w : Fin 32} (k : Canvas)
    (h : ¬ pixelReaches b px py c u w) :
    Framebuffer.cell (Canvas.drawColumn b px py k c).fb u w = Framebuffer.cell k.fb u w := by
  unfold pixelReaches at h
  rw [Canvas.cell_drawColumn, ← Bool.decide_coe (spriteBit b c), ← Bool.decide_and, decide_eq_false h, Bool.xor_false]

theorem Canvas.cell_foldl_drawColumn_of_not_reaches {b : Byte} {px py : Nat} {u : Fin 64} {w : Fin 32} (cs : List Nat) :
    ∀ k : Canvas, (∀ c ∈ cs, ¬ pixelReaches b px py c u w) →
      Framebuffer.cell (cs.foldl (Canvas.drawColumn b px py) k).fb u w = Framebuffer.cell k.fb u w := by
  induction cs with
  | nil => intro k _; rfl
  | cons c cs ih =>
    intro k h
    obtain ⟨hc, hcs⟩ := List.forall_mem_cons.1 h
    exact (ih _ hcs).trans (Canvas.cell_drawColumn_of_not_reaches k hc)

/-- A sprite changes no cell that none of its pixels reaches. -/
theorem Canvas.cell_drawSprite_of_not_reaches {px : Nat} {u : Fin 64} {w : Fin 32} (bs : List Byte) : ∀ (k : Canvas) (py : Nat),
    (∀ (r : Nat) (hr : r < bs.length) (c : Nat), c < 8 → ¬ pixelReaches bs[r] px (py + r) c u w) →
      Framebuffer.cell (Canvas.drawSprite px k py bs).fb u w = Framebuffer.cell k.fb u w := by
  induction bs with
  | nil => intro k py _; rfl
  | cons b bs ih =>
    intro k py h
    have hrow : ∀ c ∈ List.range 8, ¬ pixelReaches b px py c u w := fun c hc =>
      h 0 (Nat.zero_lt_succ _) c (List.mem_range.1 hc)
    have hrest := ih (Canvas.drawByte k b px py) (py + 1) fun r hr c hc => by
      rw [Nat.add_assoc, Nat.add_comm 1]
      exact h (r + 1) (Nat.succ_lt_succ hr) c hc
    exact hrest.trans (Canvas.cell_foldl_drawColumn_of_not_reaches _ k hrow)

/-- A cell that the sprite of DRW does not cover stays as it was (44_display R171). -/
theorem cell_drawn_of_not_covers {s : State} {x y : Reg} {n : BitVec 4} {u : Fin 64} {w : Fin 32}
    (h : ¬ s.spriteCovers x y n.toNat u w) :
    Framebuffer.cell (drawn s x y (spriteRows s n)).fb u w = Framebuffer.cell s.fb u w := by
  refine Canvas.cell_drawSprite_of_not_reaches _ _ _ fun r hr c hc hreach => h ?_
  obtain ⟨hbit, hu, hw⟩ := hreach
  simp only [spriteRows, List.length_map, List.length_range] at hr
  simp only [spriteRows, List.getElem_map, List.getElem_range] at hbit
  exact ⟨r, hr, c, hc, hbit, congrArg Fin.val hu, congrArg Fin.val hw⟩

end Sys2Proof.Machine

/-! ## Proofs: the frame of every instruction -/

namespace Sys2Proof.Machine

/-- Push changes the next entry and SP (10_state R30). -/
theorem push_changesOnly {s : State} (v : Word) (h : s.sp.val < 16) :
    s.changesOnly { s with stack := s.stack.set s.sp.val v, sp := ⟨s.sp.val + 1, by omega⟩ } fun e =>
      e = .sp ∨ e = .stackEntry ⟨s.sp.val, h⟩ :=
  ((setStack_changesOnly s ⟨s.sp.val, h⟩ v).andThen (setSp_changesOnly _ _)).mono fun _ => Or.symm

/-- An update and then the normal advance (40_step R104). -/
theorem State.changesOnly.advance {s t : State} {w : Element → Prop} (h : s.changesOnly t w) :
    s.changesOnly t.advance fun e => w e ∨ e = .pc :=
  h.andThen (jumpTo_changesOnly t _)

/-- The frame of a jump or a skip, for which the tables name no piece but pc. -/
theorem State.changesOnly.pcAlone {s t : State} (h : s.changesOnly t (· = .pc)) : s.changesOnly t fun e => False ∨ e = .pc :=
  h.mono fun _ => .inr

/-- An access that the table of faults lets pass stays inside memory (20_memory R53). -/
theorem fits_of_not_leavesMemory {s : State} {n : Nat} {f : Fault}
    (h : (if s.leavesMemory n then some f else none) = none) : n = 0 ∨ s.i.toNat + n ≤ memorySize := by
  have hin : ¬ s.leavesMemory n = true := fun hout => by simp [hout] at h
  simp only [State.leavesMemory, decide_eq_true_eq] at hin
  unfold memorySize
  omega

theorem execCls_changesOnly {s t : State} (h : execCls s = .next t) :
    s.changesOnly t fun e => writes .cls s e ∨ e = .pc := by
  cases h
  refine State.changesOnly.advance ((setFb_changesOnly s _ (fun _ _ => True) fun _ _ h => absurd trivial h).mono ?_)
  rintro _ ⟨x, y, rfl, -⟩
  exact ⟨x, y, rfl⟩

theorem execRet_changesOnly {s t : State} (hsp : s.sp.val ≠ 0) (h : execRet s = .next t) :
    s.changesOnly t fun e => writes .ret s e ∨ e = .pc := by
  rw [execRet_ok s hsp] at h
  cases h
  exact (setSp_changesOnly s ⟨s.sp.val - 1, by omega⟩).andThen (jumpTo_changesOnly _ (s.stack[s.sp.val - 1] + 2))

theorem execCall_changesOnly {s t : State} {nnn : Addr12} (hsp : s.sp.val ≠ 16) (h : execCall nnn s = .next t) :
    s.changesOnly t fun e => writes (.call nnn) s e ∨ e = .pc := by
  rw [execCall_ok s nnn hsp] at h
  cases h
  have hlt : s.sp.val < 16 := by omega
  refine State.changesOnly.andThen ((push_changesOnly s.pc hlt).mono ?_) (jumpTo_changesOnly _ (zextAddr nnn))
  exact fun _ => Or.imp_right fun he => ⟨⟨s.sp.val, hlt⟩, he, rfl⟩

theorem execDrw_changesOnly {s t : State} {x y : Reg} {n : BitVec 4} (hfits : n.toNat = 0 ∨ s.i.toNat + n.toNat ≤ memorySize)
    (h : execDrw x y n s = .next t) : s.changesOnly t fun e => writes (.drw x y n) s e ∨ e = .pc := by
  rw [execDrw_ok s x y n hfits] at h
  cases h
  have hcells := setFb_changesOnly s (drawn s x y (spriteRows s n)).fb (s.spriteCovers x y n.toNat) fun _ _ =>
    cell_drawn_of_not_covers
  exact ((hcells.andThen (setV_changesOnly _ vf _)).mono fun _ => Or.symm).advance

theorem execLdB_changesOnly {s t : State} {x : Reg} (hfits : s.i.toNat + 3 ≤ memorySize) (h : execLdB x s = .next t) :
    s.changesOnly t fun e => writes (.ldB x) s e ∨ e = .pc := by
  rw [execLdB_ok s x hfits] at h
  cases h
  exact (pokeBytes_index_changesOnly s (bcdDigits (s.getV x))).advance

theorem execLdMemVx_changesOnly {s t : State} {x : Reg} (hfits : s.i.toNat + blockLength x ≤ memorySize)
    (h : execLdMemVx x s = .next t) : s.changesOnly t fun e => writes (.ldMemVx x) s e ∨ e = .pc := by
  rw [execLdMemVx_ok s x hfits] at h
  cases h
  have hstore := pokeBytes_index_changesOnly s (registerList s x)
  rw [registerList_length] at hstore
  exact ((hstore.andThen (setI_changesOnly _ _)).mono fun _ => Or.symm).advance

theorem execLdVxMem_changesOnly {s t : State} {x : Reg} (hfits : s.i.toNat + blockLength x ≤ memorySize)
    (h : execLdVxMem x s = .next t) : s.changesOnly t fun e => writes (.ldVxMem x) s e ∨ e = .pc := by
  rw [execLdVxMem_ok s x hfits] at h
  cases h
  have hload := setRegisters_changesOnly s x ((List.range (blockLength x)).map fun k => s.peek (s.i.toNat + k)) (by simp)
  exact ((hload.andThen (setI_changesOnly _ _)).mono fun _ => Or.symm).advance

/-- Settles O15: the frame of an instruction is that of the update it makes, and pc. -/
theorem everyInstructionWritesOnlyItsPieces : Obligations.EveryInstructionWritesOnlyItsPieces := by
  intro i s t hraises h
  cases i with
  | cls => exact execCls_changesOnly h
  | ret => exact execRet_changesOnly (fun hsp => by simp [raises, hsp] at hraises) h
  | call => exact execCall_changesOnly (fun hsp => by simp [raises, hsp] at hraises) h
  | drw => exact execDrw_changesOnly (fits_of_not_leavesMemory hraises) h
  | ldB => exact execLdB_changesOnly ((fits_of_not_leavesMemory hraises).resolve_left (by omega)) h
  | ldMemVx => exact execLdMemVx_changesOnly ((fits_of_not_leavesMemory hraises).resolve_left (by omega)) h
  | ldVxMem => exact execLdVxMem_changesOnly ((fits_of_not_leavesMemory hraises).resolve_left (by omega)) h
  | rnd => exact (execRnd_changesOnly h).mono fun _ => or_assoc.2
  | jp | jpV0 => cases h; exact (jumpTo_changesOnly s _).pcAlone
  | seImm | sneImm | seReg | sneReg => cases h; exact (skipIf_changesOnly s _).pcAlone
  | ldImm | addImm | ldReg | or | and | xor | ldVxDt => cases h; exact (setV_changesOnly s _ _).advance
  | addReg | sub | shr | subn | shl => cases h; exact (setResultThenFlag_changesOnly s _ _ _).advance
  | ldI | addI | ldF => cases h; exact (setI_changesOnly s _).advance
  | ldDtVx => cases h; exact (setDt_changesOnly s _).advance
  | ldStVx => cases h; exact (setSt_changesOnly s _).advance
  | skp | sknp | ldVxK => cases hraises

end Sys2Proof.Machine

/-! ## Proofs: the stack, the timers and the framebuffer -/

namespace Sys2Proof.Machine

/-- The instruction leaves the stack and the timers and does the same to the rest of the state whatever they hold. -/
def IgnoresStackAndTimers (i : Instr) : Prop :=
  ∀ (s : State) (stack' : Vector Word 16) (sp' : Fin 17) (dt' st' : Byte),
    ∃ t, exec i s = .next t ∧ t.stack = s.stack ∧ t.sp = s.sp ∧ t.dt = s.dt ∧ t.st = s.st ∧
      exec i { s with stack := stack', sp := sp', dt := dt', st := st' } =
        .next { t with stack := stack', sp := sp', dt := dt', st := st' }

/-- The instruction leaves the framebuffer and the timers and does the same to the rest of the state whatever they
hold. -/
def IgnoresFramebufferAndTimers (i : Instr) : Prop :=
  ∀ (s : State) (fb' : Framebuffer) (dt' st' : Byte),
    ∃ t, exec i s = .next t ∧ t.fb = s.fb ∧ t.dt = s.dt ∧ t.st = s.st ∧
      exec i { s with fb := fb', dt := dt', st := st' } = .next { t with fb := fb', dt := dt', st := st' }

/-- The instruction leaves the timers and does the same to the rest of the state whatever they hold. -/
def IgnoresTimers (i : Instr) : Prop :=
  ∀ (s : State) (dt' st' : Byte),
    ∃ t, exec i s = .next t ∧ t.dt = s.dt ∧ t.st = s.st ∧
      exec i { s with dt := dt', st := st' } = .next { t with dt := dt', st := st' }

theorem IgnoresBystanders.ignoresStackAndTimers {i : Instr} (hi : IgnoresBystanders i) : IgnoresStackAndTimers i :=
  fun s stack' sp' dt' st' => by
    obtain ⟨t, hs, ht, hb⟩ := hi.next s
    refine ⟨t, hs, congrArg Bystanders.stack ht, congrArg Bystanders.sp ht, congrArg Bystanders.dt ht,
      congrArg Bystanders.st ht, (hb { s.bystanders with stack := stack', sp := sp', dt := dt', st := st' }).trans ?_⟩
    rw [← ht]; rfl

theorem IgnoresBystanders.ignoresFramebufferAndTimers {i : Instr} (hi : IgnoresBystanders i) :
    IgnoresFramebufferAndTimers i := fun s fb' dt' st' => by
  obtain ⟨t, hs, ht, hb⟩ := hi.next s
  refine ⟨t, hs, congrArg Bystanders.fb ht, congrArg Bystanders.dt ht, congrArg Bystanders.st ht,
    (hb { s.bystanders with fb := fb', dt := dt', st := st' }).trans ?_⟩
  rw [← ht]; rfl

theorem IgnoresStackAndTimers.stack {i : Instr} (hi : IgnoresStackAndTimers i) (s : State) (stack' : Vector Word 16)
    (sp' : Fin 17) : ∃ t, exec i s = .next t ∧ t.stack = s.stack ∧ t.sp = s.sp ∧
      exec i { s with stack := stack', sp := sp' } = .next { t with stack := stack', sp := sp' } := by
  obtain ⟨t, hs, hstack, hsp, hdt, hst, hother⟩ := hi s stack' sp' s.dt s.st
  exact ⟨t, hs, hstack, hsp, hother.trans (by rw [← hdt, ← hst])⟩

theorem IgnoresStackAndTimers.ignoresTimers {i : Instr} (hi : IgnoresStackAndTimers i) : IgnoresTimers i :=
  fun s dt' st' => by
    obtain ⟨t, hs, hstack, hsp, hdt, hst, hother⟩ := hi s s.stack s.sp dt' st'
    exact ⟨t, hs, hdt, hst, hother.trans (by rw [← hstack, ← hsp])⟩

theorem IgnoresFramebufferAndTimers.ignoresTimers {i : Instr} (hi : IgnoresFramebufferAndTimers i) : IgnoresTimers i :=
  fun s dt' st' => by
    obtain ⟨t, hs, hfb, hdt, hst, hother⟩ := hi s s.fb dt' st'
    exact ⟨t, hs, hdt, hst, hother.trans (by rw [← hfb])⟩

theorem ignoresStackAndTimers_cls : IgnoresStackAndTimers .cls := fun _ _ _ _ _ => ⟨_, rfl, rfl, rfl, rfl, rfl, rfl⟩

theorem ignoresStackAndTimers_drw (x y : Reg) (n : BitVec 4) : IgnoresStackAndTimers (.drw x y n) :=
  fun s stack' sp' dt' st' => by
    by_cases h : n.toNat = 0 ∨ s.i.toNat + n.toNat ≤ memorySize
    · exact ⟨_, execDrw_ok s x y n h, rfl, rfl, rfl, rfl,
        execDrw_ok { s with stack := stack', sp := sp', dt := dt', st := st' } x y n h⟩
    · have hout : n.toNat ≠ 0 ∧ memorySize < s.i.toNat + n.toNat := by omega
      exact ⟨_, execDrw_fault s x y n hout, rfl, rfl, rfl, rfl,
        execDrw_fault { s with stack := stack', sp := sp', dt := dt', st := st' } x y n hout⟩

theorem ignoresFramebufferAndTimers_call (nnn : Addr12) : IgnoresFramebufferAndTimers (.call nnn) := fun s fb' dt' st' => by
  by_cases h : s.sp.val = 16
  · exact ⟨_, execCall_full s nnn h, rfl, rfl, rfl, execCall_full { s with fb := fb', dt := dt', st := st' } nnn h⟩
  · exact ⟨_, execCall_ok s nnn h, rfl, rfl, rfl, execCall_ok { s with fb := fb', dt := dt', st := st' } nnn h⟩

theorem ignoresFramebufferAndTimers_ret : IgnoresFramebufferAndTimers .ret := fun s fb' dt' st' => by
  by_cases h : s.sp.val = 0
  · exact ⟨_, execRet_empty s h, rfl, rfl, rfl, execRet_empty { s with fb := fb', dt := dt', st := st' } h⟩
  · exact ⟨_, execRet_ok s h, rfl, rfl, rfl, execRet_ok { s with fb := fb', dt := dt', st := st' } h⟩

theorem ignoresFramebufferAndTimers_rnd (x : Reg) (nn : Byte) : IgnoresFramebufferAndTimers (.rnd x nn) :=
  fun _ _ _ _ => ⟨_, rfl, rfl, rfl, rfl, rfl⟩

/-- Only the three timer instructions touch a timer. -/
theorem ignoresTimers_or (i : Instr) :
    IgnoresTimers i ∨ (∃ x, i = .ldVxDt x) ∨ (∃ x, i = .ldDtVx x) ∨ ∃ x, i = .ldStVx x := by
  obtain h | rfl | ⟨x, y, n, rfl⟩ | ⟨nnn, rfl⟩ | rfl | h | h | h | ⟨x, nn, rfl⟩ := ignoresBystanders_or i
  · exact .inl h.ignoresStackAndTimers.ignoresTimers
  · exact .inl ignoresStackAndTimers_cls.ignoresTimers
  · exact .inl (ignoresStackAndTimers_drw x y n).ignoresTimers
  · exact .inl (ignoresFramebufferAndTimers_call nnn).ignoresTimers
  · exact .inl ignoresFramebufferAndTimers_ret.ignoresTimers
  · exact .inr (.inl h)
  · exact .inr (.inr (.inl h))
  · exact .inr (.inr (.inr h))
  · exact .inl (ignoresFramebufferAndTimers_rnd x nn).ignoresTimers

/-- Settles O53: CALL and RET aside, an instruction ignores the stack and the timers, or is one of the three of the timers
or RND, which leave the stack. -/
theorem onlyCallAndReturnTouchTheStack : Obligations.OnlyCallAndReturnTouchTheStack := by
  intro i s stack' sp' hcall hret
  obtain h | rfl | ⟨x, y, n, rfl⟩ | ⟨nnn, rfl⟩ | rfl | ⟨x, rfl⟩ | ⟨x, rfl⟩ | ⟨x, rfl⟩ | ⟨x, nn, rfl⟩ :=
    ignoresBystanders_or i
  · exact h.ignoresStackAndTimers.stack s stack' sp'
  · exact ignoresStackAndTimers_cls.stack s stack' sp'
  · exact (ignoresStackAndTimers_drw x y n).stack s stack' sp'
  · exact absurd rfl (hcall nnn)
  · exact absurd rfl hret
  · exact ⟨_, rfl, rfl, rfl, rfl⟩
  · exact ⟨_, rfl, rfl, rfl, rfl⟩
  · exact ⟨_, rfl, rfl, rfl, rfl⟩
  · exact ⟨_, rfl, rfl, rfl, rfl⟩

/-- Settles O54: only LD_ST_VX has to do with ST, and it writes over what ST held. -/
theorem noInstructionReadsTheSoundTimer : Obligations.NoInstructionReadsTheSoundTimer := by
  intro i s st'
  obtain h | ⟨x, rfl⟩ | ⟨x, rfl⟩ | ⟨x, rfl⟩ := ignoresTimers_or i
  · obtain ⟨t, hs, hdt, hst, hother⟩ := h s s.dt st'
    exact ⟨t, hs, fun _ => hother.trans (by rw [← hdt]), fun ⟨_, hi⟩ => by subst hi; exact hs⟩
  · exact ⟨_, rfl, fun _ => rfl, fun ⟨_, hi⟩ => nomatch hi⟩
  · exact ⟨_, rfl, fun _ => rfl, fun ⟨_, hi⟩ => nomatch hi⟩
  · exact ⟨_, rfl, fun hst => absurd rfl (hst x), fun _ => rfl⟩

/-- Settles O55: LD_VX_DT aside, only LD_DT_VX has to do with DT, and it writes over what DT held. -/
theorem onlyLoadTimerReadsTheDelayTimer : Obligations.OnlyLoadTimerReadsTheDelayTimer := by
  intro i s dt' hdtRead
  obtain h | ⟨x, rfl⟩ | ⟨x, rfl⟩ | ⟨x, rfl⟩ := ignoresTimers_or i
  · obtain ⟨t, hs, hdt, hst, hother⟩ := h s dt' s.st
    exact ⟨t, hs, fun _ => hother.trans (by rw [← hst]), fun ⟨_, hi⟩ => by subst hi; exact hs⟩
  · exact absurd rfl (hdtRead x)
  · exact ⟨_, rfl, fun hdt => absurd rfl (hdt x), fun _ => rfl⟩
  · exact ⟨_, rfl, fun _ => rfl, fun ⟨_, hi⟩ => nomatch hi⟩

/-- Settles O56: DRW aside, only CLS has to do with the framebuffer, and it writes over what the framebuffer held. -/
theorem onlyDrawReadsTheFramebuffer : Obligations.OnlyDrawReadsTheFramebuffer := by
  intro i s fb' hdrw
  have of_ignores (h : IgnoresFramebufferAndTimers i) : ∃ t, exec i s = .next t ∧
      (i ≠ .cls → t.fb = s.fb ∧ exec i { s with fb := fb' } = .next { t with fb := fb' }) ∧
      (i = .cls → exec i { s with fb := fb' } = .next t) := by
    obtain ⟨t, hs, hfb, hdt, hst, hother⟩ := h s fb' s.dt s.st
    exact ⟨t, hs, fun _ => ⟨hfb, hother.trans (by rw [← hdt, ← hst])⟩, fun hi => by subst hi; exact hs⟩
  obtain h | rfl | ⟨x, y, n, rfl⟩ | ⟨nnn, rfl⟩ | rfl | ⟨x, rfl⟩ | ⟨x, rfl⟩ | ⟨x, rfl⟩ | ⟨x, nn, rfl⟩ :=
    ignoresBystanders_or i
  · exact of_ignores h.ignoresFramebufferAndTimers
  · exact ⟨_, rfl, fun hcls => absurd rfl hcls, fun _ => rfl⟩
  · exact absurd rfl (hdrw x y n)
  · exact of_ignores (ignoresFramebufferAndTimers_call nnn)
  · exact of_ignores ignoresFramebufferAndTimers_ret
  · exact ⟨_, rfl, fun _ => ⟨rfl, rfl⟩, fun hi => nomatch hi⟩
  · exact ⟨_, rfl, fun _ => ⟨rfl, rfl⟩, fun hi => nomatch hi⟩
  · exact ⟨_, rfl, fun _ => ⟨rfl, rfl⟩, fun hi => nomatch hi⟩
  · exact of_ignores (ignoresFramebufferAndTimers_rnd x nn)

end Sys2Proof.Machine

/-! ## Proofs: reset and Push -/

namespace Sys2Proof.Machine

theorem resetWith_inv (p : Params) (draws : Nat) : (State.resetWith p draws).Inv where
  memWf := Memory.wf_nil p.fontData
  pcBound := Nat.le_of_ble_eq_true rfl
  stackBound k := by simp [State.resetWith]

/-- Settles O17: the reset state is a reset state under the default parameters. -/
theorem resetMeetsTheInvariant : Obligations.ResetMeetsTheInvariant :=
  ⟨resetWith_inv defaultParams 0, resetWith_inv⟩

/-- After RESET memory lists nothing, so each address reads as its reset contents (10_state R39). -/
theorem doReset_peek (s : State) (a : Nat) : s.doReset.peek a = unlistedByte s.params.fontData a := rfl

/-- Settles O21: memory lists nothing after RESET, so FONT_DATA and 0 are what is read. -/
theorem resetLeavesTheResetValues : Obligations.ResetLeavesTheResetValues := by
  intro s
  refine ⟨fun r => ?_, rfl, rfl, fun k => ?_, rfl, Framebuffer.cell_clear, rfl, rfl, fun a => ?_, fun a ha => ?_, rfl⟩
  · simp [State.getV]
  · simp
  · rw [doReset_peek, unlistedByte, dif_pos a.isLt]; rfl
  · rw [doReset_peek, unlistedByte, dif_neg (Nat.not_lt.2 ha)]

/-- Settles O30, by the two outcomes of Push. -/
theorem pushFillsTheNextEntryOrOverflows : Obligations.PushFillsTheNextEntryOrOverflows := by
  intro s v
  refine ⟨push_full s v, fun h => ⟨_, push_ok s v h.ne, ?_, rfl, push_changesOnly v h⟩⟩
  exact Vector.getElem_set_self h

end Sys2Proof.Machine

/-! ## Proofs: memory -/

namespace Sys2Proof.Machine

/-- A canonical memory that reads as another does at an address the other lists starts no later than there: the listed
byte differs from what an unlisted address reads as. -/
theorem Memory.start_le_of_read_eq_listed {font : Vector Byte 80} {lo lo' a : Nat} {v : Byte} {m m' : Memory}
    (hm : Memory.wfFrom font lo ((a, v) :: m) = true) (hm' : Memory.wfFrom font lo' m' = true)
    (hread : Memory.read font ((a, v) :: m) a = Memory.read font m' a) : lo' ≤ a := by
  obtain ⟨-, -, hv, -⟩ := (Memory.wfFrom_cons font lo a v m).1 hm
  by_contra hlt
  rw [Memory.read, if_pos rfl, Memory.read_below font m' hm' a (Nat.lt_of_not_le hlt)] at hread
  exact hv hread

/-- The canonical form holds from the first address listed on. -/
theorem Memory.wfFrom_head {font : Vector Byte 80} {lo a : Nat} {v : Byte} {m : Memory}
    (hm : Memory.wfFrom font lo ((a, v) :: m) = true) : Memory.wfFrom font a ((a, v) :: m) = true :=
  (Memory.wfFrom_cons font a a v m).2 ⟨Nat.le_refl a, ((Memory.wfFrom_cons font lo a v m).1 hm).2⟩

/-- A canonical memory that lists a byte does not read as the empty memory does. -/
theorem Memory.read_cons_ne_read_nil {font : Vector Byte 80} {lo a : Nat} {v : Byte} {m : Memory}
    (hm : Memory.wfFrom font lo ((a, v) :: m) = true) : Memory.read font ((a, v) :: m) a ≠ Memory.read font [] a :=
  fun hread => Nat.not_succ_le_self a (Memory.start_le_of_read_eq_listed (lo' := a + 1) hm rfl hread)

/-- Canonical memories that read alike at every address are the same list: they list the same first address, with the
same byte, and their tails read alike. -/
theorem Memory.eq_of_read_eq (font : Vector Byte 80) (m : Memory) : ∀ {m' : Memory} {lo lo' : Nat},
    Memory.wfFrom font lo m = true → Memory.wfFrom font lo' m' = true →
    (∀ c, Memory.read font m c = Memory.read font m' c) → m = m' := by
  induction m with
  | nil =>
    intro m' lo lo' _ hm' hread
    cases m' with
    | nil => rfl
    | cons e' m' => exact absurd (hread e'.1).symm (Memory.read_cons_ne_read_nil hm')
  | cons e m ih =>
    intro m' lo lo' hm hm' hread
    obtain ⟨a, v⟩ := e
    cases m' with
    | nil => exact absurd (hread a) (Memory.read_cons_ne_read_nil hm)
    | cons e' m' =>
      obtain ⟨a', v'⟩ := e'
      obtain rfl : a = a' := Nat.le_antisymm
        (Memory.start_le_of_read_eq_listed hm' (Memory.wfFrom_head hm) (hread a').symm)
        (Memory.start_le_of_read_eq_listed hm (Memory.wfFrom_head hm') (hread a))
      obtain rfl : v = v' := by simpa [Memory.read] using hread a
      obtain ⟨-, -, -, htail⟩ := (Memory.wfFrom_cons font lo a v m).1 hm
      obtain ⟨-, -, -, htail'⟩ := (Memory.wfFrom_cons font lo' a v m').1 hm'
      have htails : ∀ c, Memory.read font m c = Memory.read font m' c := fun c => by
        by_cases hc : c = a
        · have hbelow : c < a + 1 := by omega
          rw [Memory.read_below font m htail c hbelow, Memory.read_below font m' htail' c hbelow]
        · simpa [Memory.read, hc] using hread c
      rw [ih htail htail' htails]

/-- Settles O20: the read after a write, and extensionality of the canonical form. -/
theorem memoryReadsTheLatestWrite : Obligations.MemoryReadsTheLatestWrite := by
  refine ⟨fun s a c v => ⟨?_, fun hc => ?_⟩, fun font m _ hm hm' => Memory.eq_of_read_eq font m hm hm'⟩
  · rw [State.peek_poke, if_pos rfl]
  · rw [State.peek_poke, if_neg hc]

/-- The value of a big-endian word (20_memory R57). -/
theorem bigEndian_toNat (hi lo : Byte) : (bigEndian hi lo).toNat = hi.toNat * 256 + lo.toNat := by
  have hlo : lo.toNat < 2 ^ 8 := lo.isLt
  rw [bigEndian, BitVec.toNat_append, ← Nat.shiftLeft_add_eq_or_of_lt hlo, Nat.shiftLeft_eq]

/-- What LD_MEM_VX stores: V[k] at I + k, for each k up to x (43_index_memory R154). -/
theorem peek_pokeBytes_registerList (s : State) (x : Reg) (a k : Nat) (hk : k ≤ x.toNat) :
    (s.pokeBytes a (registerList s x)).peek (a + k) = s.getV (BitVec.ofNat 4 k) := by
  have hlen : k < (registerList s x).length := by rw [registerList_length, blockLength]; omega
  rw [peek_pokeBytes_getElem s a _ k hlen, registerList_getElem s x k hlen]

@[simp] theorem pokeBytes_pc (s : State) (a : Nat) (bs : List Byte) : (s.pokeBytes a bs).pc = s.pc := by
  rw [pokeBytes_eq]

/-- Settles O45: the pc after LD_MEM_VX is the I it stored at, where V0 and V1 now stand. -/
theorem storedWordIsFetchedNext : Obligations.StoredWordIsFetchedNext := by
  intro s x hx hi hfits
  have hnext : s.pc + 2 = s.i := by bv_omega
  have hpc : ((s.pokeBytes s.i.toNat (registerList s x)).bumpIndex x).advance.pc = s.i := by
    rw [State.advance_pc, State.bumpIndex_pc, pokeBytes_pc, hnext]
  have hhigh : (s.pokeBytes s.i.toNat (registerList s x)).peek s.i.toNat = s.getV 0 :=
    peek_pokeBytes_registerList s x s.i.toNat 0 (Nat.zero_le _)
  have hlow : (s.pokeBytes s.i.toNat (registerList s x)).peek (s.i.toNat + 1) = s.getV 1 :=
    peek_pokeBytes_registerList s x s.i.toNat 1 hx
  refine ⟨_, bigEndian (s.getV 0) (s.getV 1), execLdMemVx_ok s x (by unfold blockLength memorySize; omega), ?_,
    bigEndian_toNat _ _⟩
  rw [fetch_ok _ (by rw [hpc]; omega), hpc]
  simp only [State.advance_peek, State.bumpIndex_peek, hhigh, hlow]

end Sys2Proof.Machine

/-! ## Proofs: what a step can do

A step checks the latch, the fetch, the decode and the instruction's own check, in this order (60_exceptions R202). Each
outcome has its equation, and `step_cases` puts them together. -/

namespace Sys2Proof.Machine

/-! ### The instruction's own check -/

/-- Every instruction answers a next state: part of the statement that none reads ST (O54), which splits them. -/
theorem exec_next (i : Instr) (s : State) : ∃ t, exec i s = .next t :=
  (noInstructionReadsTheSoundTimer i s s.st).imp fun _ h => h.1

/-- An access that the table of faults stops leaves memory (20_memory R53). -/
theorem exceeds_of_leavesMemory {s : State} {n : Nat} {f g : Fault}
    (h : (if s.leavesMemory n then some f else none) = some g) : (n ≠ 0 ∧ memorySize < s.i.toNat + n) ∧ f = g := by
  obtain ⟨hout, hfault⟩ := Option.ite_none_right_eq_some.1 h
  simp only [State.leavesMemory, decide_eq_true_eq] at hout
  refine ⟨?_, Option.some.inj hfault⟩
  unfold memorySize
  omega

/-- An instruction that raises a fault by the table takes it from the state before it (40_step R105). -/
theorem exec_of_raises {i : Instr} {s : State} {f : Fault} (h : raises i s = some f) :
    exec i s = .next { s with fault := some f } := by
  cases i with
  | ret =>
    obtain ⟨hsp, hf⟩ := Option.ite_none_right_eq_some.1 h
    cases hf
    exact execRet_empty s hsp
  | call nnn =>
    obtain ⟨hsp, hf⟩ := Option.ite_none_right_eq_some.1 h
    cases hf
    exact execCall_full s nnn hsp
  | drw x y n =>
    obtain ⟨hout, rfl⟩ := exceeds_of_leavesMemory h
    exact execDrw_fault s x y n hout
  | ldB x =>
    obtain ⟨⟨-, hout⟩, rfl⟩ := exceeds_of_leavesMemory h
    exact execLdB_fault s x hout
  | ldMemVx x =>
    obtain ⟨⟨-, hout⟩, rfl⟩ := exceeds_of_leavesMemory h
    exact execLdMemVx_fault s x hout
  | ldVxMem x =>
    obtain ⟨⟨-, hout⟩, rfl⟩ := exceeds_of_leavesMemory h
    exact execLdVxMem_fault s x hout
  | skp | sknp | ldVxK => cases h; rfl
  | _ => cases h

/-! ### The outcomes of a step -/

theorem step_latched {s : State} {f : Fault} (hf : s.fault = some f) : step s = .next s := by
  simp only [step, hf]

theorem step_of_fetch_error {s : State} {f : Fault} (hclear : s.fault = none) (hfetch : fetch s = .error f) :
    step s = .next { s with fault := some f } := by
  simp only [step, hclear, hfetch, takeFault]

theorem step_of_decode_error {s : State} {op : Word} {r : Reject} (hclear : s.fault = none) (hfetch : fetch s = .ok op)
    (hdecode : decode op = .error r) : step s = .next { s with fault := some (.decodeFailure op) } := by
  simp only [step, hclear, hfetch, hdecode, takeFault]

theorem step_of_decode_ok {s : State} {op : Word} {i : Instr} (hclear : s.fault = none) (hfetch : fetch s = .ok op)
    (hdecode : decode op = .ok i) : step s = exec i s := by
  simp only [step, hclear, hfetch, hdecode]

/-- The step runs an instruction that raises no fault, and leaves `t`. -/
structure Retires (s : State) (i : Instr) (t : State) : Prop where
  clear : s.fault = none
  fetched : ∃ op, fetch s = .ok op ∧ decode op = .ok i
  passes : raises i s = none
  runs : exec i s = .next t

/-- What a step can do: nothing where the latch is set, else set the latch alone, or retire an instruction. -/
theorem step_cases (s : State) :
    ((∃ f, s.fault = some f) ∧ step s = .next s) ∨
    (s.fault = none ∧ ∃ f, step s = .next { s with fault := some f }) ∨
    (∃ i t, Retires s i t ∧ step s = .next t) := by
  cases hlatch : s.fault with
  | some f => exact .inl ⟨⟨f, rfl⟩, step_latched hlatch⟩
  | none =>
    cases hfetch : fetch s with
    | error f => exact .inr (.inl ⟨rfl, f, step_of_fetch_error hlatch hfetch⟩)
    | ok op =>
      cases hdecode : decode op with
      | error r => exact .inr (.inl ⟨rfl, _, step_of_decode_error hlatch hfetch hdecode⟩)
      | ok i =>
        have hstep := step_of_decode_ok hlatch hfetch hdecode
        cases hraises : raises i s with
        | some f => exact .inr (.inl ⟨rfl, f, hstep.trans (exec_of_raises hraises)⟩)
        | none =>
          obtain ⟨t, ht⟩ := exec_next i s
          exact .inr (.inr ⟨i, t, ⟨hlatch, ⟨op, hfetch, hdecode⟩, hraises, ht⟩, hstep.trans ht⟩)

/-- `step_cases` of a step whose next state is known. -/
theorem step_next_cases {s t : State} (h : step s = .next t) :
    ((∃ f, s.fault = some f) ∧ t = s) ∨ (s.fault = none ∧ ∃ f, t = { s with fault := some f }) ∨ ∃ i, Retires s i t := by
  obtain ⟨hf, hs⟩ | ⟨hclear, f, hs⟩ | ⟨i, u, hu, hs⟩ := step_cases s <;> cases hs.symm.trans h
  · exact .inl ⟨hf, rfl⟩
  · exact .inr (.inl ⟨hclear, f, rfl⟩)
  · exact .inr (.inr ⟨i, hu⟩)

/-! ### The pieces a retiring step can change -/

theorem writes_fault (i : Instr) (s : State) : ¬ writes i s .fault := by
  cases i <;> simp [writes]

theorem writes_dt {i : Instr} {s : State} (h : writes i s .dt) : ∃ x, i = .ldDtVx x := by
  cases i with
  | ldDtVx x => exact ⟨x, rfl⟩
  | _ => simp [writes] at h

theorem writes_st {i : Instr} {s : State} (h : writes i s .st) : ∃ x, i = .ldStVx x := by
  cases i with
  | ldStVx x => exact ⟨x, rfl⟩
  | _ => simp [writes] at h

theorem writes_stackEntry {i : Instr} {s : State} {k : Fin 16} (h : writes i s (.stackEntry k)) :
    (∃ nnn, i = .call nnn) ∧ k.val = s.sp.val := by
  cases i with
  | call nnn => exact ⟨⟨nnn, rfl⟩, by simpa [writes] using h⟩
  | _ => simp [writes] at h

/-- A piece the instruction does not write, other than pc, stays. -/
theorem Retires.sameAt {s t : State} {i : Instr} (h : Retires s i t) {e : Element} (hw : ¬ writes i s e) (hpc : e ≠ .pc) :
    s.sameAt t e :=
  everyInstructionWritesOnlyItsPieces i s t h.passes h.runs e (not_or.2 ⟨hw, hpc⟩)

theorem Retires.fault {s t : State} {i : Instr} (h : Retires s i t) : t.fault = none :=
  Eq.trans (h.sameAt (writes_fault i s) nofun) h.clear

theorem response_eq_ok_iff (s : State) : s.response = .ok ↔ s.fault = none := by
  unfold State.response
  split <;> simp [*]

theorem response_of_fault {s : State} {f : Fault} (h : s.fault = some f) : s.response = .fault f := by
  simp only [State.response, h]

end Sys2Proof.Machine

/-! ## Proofs: the step and its faults -/

namespace Sys2Proof.Machine

/-- Settles O11, by the three outcomes of a step. -/
theorem stepAlwaysAnswersNext : Obligations.StepAlwaysAnswersNext := by
  intro s
  obtain ⟨-, h⟩ | ⟨-, f, h⟩ | ⟨i, t, -, h⟩ := step_cases s
  · exact ⟨s, h⟩
  · exact ⟨_, h⟩
  · exact ⟨t, h⟩

/-- Settles O10: from a clear latch a step takes a fault, or retires an instruction, which no table lets write the
latch. -/
theorem faultingStepChangesTheLatchAlone : Obligations.FaultingStepChangesTheLatchAlone := by
  intro s t hclear hstep
  refine ⟨fun f hf => ?_, response_eq_ok_iff t⟩
  obtain ⟨-, rfl⟩ | ⟨-, g, rfl⟩ | ⟨i, hi⟩ := step_next_cases hstep
  · cases hclear.symm.trans hf
  · cases hf; rfl
  · cases hi.fault.symm.trans hf

/-- Settles O51: a retiring step changes a timer only where the tables name the timer for its instruction. -/
theorem stepNeverCountsATimerDown : Obligations.StepNeverCountsATimerDown := by
  intro s t hstep
  obtain ⟨-, rfl⟩ | ⟨-, f, rfl⟩ | ⟨i, hi⟩ := step_next_cases hstep
  · exact ⟨fun _ => rfl, fun _ => rfl⟩
  · exact ⟨fun _ => rfl, fun _ => rfl⟩
  · obtain ⟨op, hfetch, hdecode⟩ := hi.fetched
    refine ⟨fun hdt => hi.sameAt (e := .dt) (fun hw => ?_) nofun, fun hst => hi.sameAt (e := .st) (fun hw => ?_) nofun⟩
    · obtain ⟨x, rfl⟩ := writes_dt hw
      exact hdt op x hfetch hdecode
    · obtain ⟨x, rfl⟩ := writes_st hw
      exact hst op x hfetch hdecode

theorem decode_of_decodeBytes {hi lo : Byte} {i : Instr} {rest rest' : List Byte}
    (h : decodeBytes (hi :: lo :: rest) = .ok (i, rest')) : decode (bigEndian hi lo) = .ok i := by
  rw [decodeBytes] at h
  split at h
  · next hdecode => cases h; exact hdecode
  · cases h

/-- Settles O5: the fetch gives the word of the two bytes, and they decode as that word does. -/
theorem stepRunsTheDecodedInstruction : Obligations.StepRunsTheDecodedInstruction :=
  fun s _ hclear hpc hdecode _ => step_of_decode_ok hclear (fetch_ok s hpc) (decode_of_decodeBytes hdecode)

/-- Settles O7: the latch then holds the fault that is the response. -/
theorem undecodableWordReportsItsOpcode : Obligations.UndecodableWordReportsItsOpcode :=
  fun _ _ _ hclear hfetch hdecode => ⟨_, step_of_decode_error hclear hfetch hdecode, response_of_fault rfl⟩

/-- Settles O9: step and response both look at the latch first. -/
theorem latchedCoreIsQuiescent : Obligations.LatchedCoreIsQuiescent :=
  fun _ _ hf => ⟨step_latched hf, response_of_fault hf⟩

theorem decode_encode_jp (nnn : Addr12) : decode (encode (.jp nnn)) = .ok (.jp nnn) := by
  simp [encode, decode]

/-- Settles O33: the word at pc decodes to a JP, and a jump to pc itself is no change. -/
theorem selfLoopLeavesTheStateUnchanged : Obligations.SelfLoopLeavesTheStateUnchanged := by
  intro s hloop
  obtain ⟨nnn, hclear, hfetch, hpc⟩ := hloop
  calc step s = exec (.jp nnn) s := step_of_decode_ok hclear hfetch (decode_encode_jp nnn)
    _ = .next (s.jumpTo s.pc) := by rw [hpc]; rfl
    _ = .next s := rfl

end Sys2Proof.Machine

/-! ## Proofs: the program counter and the invariant -/

namespace Sys2Proof.Machine

/-! ### Sums of pc that do not wrap -/

theorem zextAddr_toNat (nnn : Addr12) : (zextAddr nnn).toNat = nnn.toNat :=
  BitVec.toNat_setWidth_of_le (by omega)

theorem zextByte_toNat (v : Byte) : (zextByte v).toNat = v.toNat :=
  BitVec.toNat_setWidth_of_le (by omega)

/-- The target of JP V0 is a sum of naturals: it is at most 0x10FE (41_control_flow R117). -/
theorem jpV0_target_toNat (v : Byte) (nnn : Addr12) : (zextByte v + zextAddr nnn).toNat = v.toNat + nnn.toNat := by
  have hv := v.isLt
  have hnnn := nnn.isLt
  rw [BitVec.toNat_add, zextByte_toNat, zextAddr_toNat]
  omega

theorem toNat_add_two {w : Word} (h : w.toNat ≤ 0x10FE) : (w + 2).toNat = w.toNat + 2 := by bv_omega

theorem skipIf_pc_toNat {s : State} (hpc : s.pc.toNat ≤ 0x10FE) (taken : Bool) :
    (s.skipIf taken).pc.toNat = if taken then s.pc.toNat + 4 else s.pc.toNat + 2 := by
  cases taken with
  | false => exact toNat_add_two hpc
  | true => change (s.pc + 4).toNat = s.pc.toNat + 4; bv_omega

@[simp] theorem setRegisters_pc (s : State) (k : Nat) (bs : List Byte) : (setRegisters s k bs).pc = s.pc := by
  rw [setRegisters_eq]

/-! ### What passes the table of faults, and the table of pc -/

theorem sp_ne_of_raises_ret {s : State} (h : raises .ret s = none) : s.sp.val ≠ 0 := fun hsp => by
  simp [raises, hsp] at h

theorem sp_ne_of_raises_call {s : State} {nnn : Addr12} (h : raises (.call nnn) s = none) : s.sp.val ≠ 16 := fun hsp => by
  simp [raises, hsp] at h

theorem fits_of_raises_ldB {s : State} {x : Reg} (h : raises (.ldB x) s = none) : s.i.toNat + 3 ≤ memorySize :=
  (fits_of_not_leavesMemory h).resolve_left (by omega)

theorem fits_of_raises_ldMemVx {s : State} {x : Reg} (h : raises (.ldMemVx x) s = none) :
    s.i.toNat + blockLength x ≤ memorySize :=
  (fits_of_not_leavesMemory h).resolve_left (by omega)

theorem fits_of_raises_ldVxMem {s : State} {x : Reg} (h : raises (.ldVxMem x) s = none) :
    s.i.toNat + blockLength x ≤ memorySize :=
  (fits_of_not_leavesMemory h).resolve_left (by omega)

/-- The entry RET would pop keeps the bound of the invariant. -/
theorem State.Inv.popped_le {s : State} (hinv : s.Inv) : (s.stack[s.sp.val - 1]'(by omega)).toNat ≤ 0xFFE :=
  hinv.stackBound ⟨s.sp.val - 1, by omega⟩

/-- The pc an instruction leaves is the table's, as a natural number (40_step R104). -/
theorem exec_pc {i : Instr} {s t : State} (hinv : s.Inv) (hraises : raises i s = none) (h : exec i s = .next t) :
    t.pc.toNat = pcAfter i s := by
  have hadvance : (s.pc + 2).toNat = s.pc.toNat + 2 := toNat_add_two hinv.pcBound
  cases i with
  | jp nnn => cases h; exact zextAddr_toNat nnn
  | jpV0 nnn => cases h; exact jpV0_target_toNat (s.getV 0) nnn
  | call nnn =>
    cases (execCall_ok s nnn (sp_ne_of_raises_call hraises)).symm.trans h
    exact zextAddr_toNat nnn
  | ret =>
    cases (execRet_ok s (sp_ne_of_raises_ret hraises)).symm.trans h
    have hpopped := hinv.popped_le
    exact toNat_add_two (by omega)
  | seImm | sneImm | seReg | sneReg =>
    cases h
    rw [skipIf_pc_toNat hinv.pcBound]
    simp [pcAfter]
  | drw x y n =>
    cases (execDrw_ok s x y n (fits_of_not_leavesMemory hraises)).symm.trans h
    exact hadvance
  | ldB x =>
    cases (execLdB_ok s x (fits_of_raises_ldB hraises)).symm.trans h
    rw [State.advance_pc, pokeBytes_pc]
    exact hadvance
  | ldMemVx x =>
    cases (execLdMemVx_ok s x (fits_of_raises_ldMemVx hraises)).symm.trans h
    rw [State.advance_pc, State.bumpIndex_pc, pokeBytes_pc]
    exact hadvance
  | ldVxMem x =>
    cases (execLdVxMem_ok s x (fits_of_raises_ldVxMem hraises)).symm.trans h
    rw [State.advance_pc, State.bumpIndex_pc, setRegisters_pc]
    exact hadvance
  | skp | sknp | ldVxK => cases hraises
  | _ => cases h; exact hadvance

/-- Settles O14, by the pc of each instruction. -/
theorem everyInstructionSetsPcByTheTable : Obligations.EveryInstructionSetsPcByTheTable := by
  intro i s hinv hraises
  obtain ⟨t, ht⟩ := exec_next i s
  exact ⟨t, ht, exec_pc hinv hraises ht⟩

/-! ### The invariant -/

theorem fetch_pc_le {s : State} {op : Word} (h : fetch s = .ok op) : s.pc.toNat ≤ 0xFFE := by
  by_contra hpc
  cases (fetch_error s (by omega)).symm.trans h

/-- The table's pc after a fetched instruction is at most that of JP V0, 0xFF + 0xFFF (10_state R27). -/
theorem pcAfter_le {s : State} (i : Instr) (hinv : s.Inv) (hpc : s.pc.toNat ≤ 0xFFE) : pcAfter i s ≤ 0x10FE := by
  cases i with
  | jp nnn | call nnn => have hnnn := nnn.isLt; simp only [pcAfter]; omega
  | jpV0 nnn => have hv := (s.getV 0).isLt; have hnnn := nnn.isLt; simp only [pcAfter]; omega
  | ret => have hpopped := hinv.popped_le; simp only [pcAfter]; omega
  | seImm | sneImm | seReg | sneReg => simp only [pcAfter]; split <;> omega
  | _ => simp only [pcAfter]; omega

theorem State.memWf.pokeBytes {s : State} (hm : s.memWf) {a : Nat} {bs : List Byte} (h : a + bs.length ≤ memorySize) :
    (s.pokeBytes a bs).memWf := by
  rw [pokeBytes_eq]
  exact wf_pokeBytes bs s a h hm

/-- An instruction keeps memory canonical: it writes no memory, or a block inside it (log 6). -/
theorem exec_memWf {i : Instr} {s t : State} (hraises : raises i s = none) (h : exec i s = .next t) (hm : s.memWf) :
    t.memWf := by
  cases i with
  | ldB x =>
    cases (execLdB_ok s x (fits_of_raises_ldB hraises)).symm.trans h
    exact hm.pokeBytes (fits_of_raises_ldB hraises)
  | ldMemVx x =>
    cases (execLdMemVx_ok s x (fits_of_raises_ldMemVx hraises)).symm.trans h
    exact hm.pokeBytes (by rw [registerList_length]; exact fits_of_raises_ldMemVx hraises)
  | ldVxMem x =>
    cases (execLdVxMem_ok s x (fits_of_raises_ldVxMem hraises)).symm.trans h
    rw [setRegisters_eq]
    exact hm
  | drw x y n =>
    cases (execDrw_ok s x y n (fits_of_not_leavesMemory hraises)).symm.trans h
    exact hm
  | call nnn =>
    cases (execCall_ok s nnn (sp_ne_of_raises_call hraises)).symm.trans h
    exact hm
  | ret =>
    cases (execRet_ok s (sp_ne_of_raises_ret hraises)).symm.trans h
    exact hm
  | skp | sknp | ldVxK => cases hraises
  | _ => cases h; exact hm

/-- A stack entry after a retiring step is what it was, or the address the step fetched from: CALL pushes its own
address (41_control_flow R112, decision D1). -/
theorem Retires.stackEntry {s t : State} {i : Instr} (h : Retires s i t) (k : Fin 16) :
    t.stack[k] = s.stack[k] ∨ t.stack[k] = s.pc := by
  by_cases hw : writes i s (.stackEntry k)
  · obtain ⟨⟨nnn, rfl⟩, hk⟩ := writes_stackEntry hw
    have hsp := sp_ne_of_raises_call h.passes
    cases (execCall_ok s nnn hsp).symm.trans h.runs
    right
    simp [hk]
  · exact .inl (h.sameAt hw nofun)

/-- Retiring an instruction keeps the invariant. -/
theorem State.Inv.retires {s t : State} {i : Instr} (hinv : s.Inv) (h : Retires s i t) : t.Inv := by
  obtain ⟨op, hfetch, -⟩ := h.fetched
  have hpc : s.pc.toNat ≤ 0xFFE := fetch_pc_le hfetch
  refine ⟨exec_memWf h.passes h.runs hinv.memWf, ?_, fun k => ?_⟩
  · rw [exec_pc hinv h.passes h.runs]
    exact pcAfter_le i hinv hpc
  · obtain hk | hk := h.stackEntry k
    · rw [hk]; exact hinv.stackBound k
    · rw [hk]; exact hpc

/-- The latch is no part of the invariant. -/
theorem State.Inv.setFault {s : State} (hinv : s.Inv) (f : Option Fault) : State.Inv { s with fault := f } :=
  ⟨hinv.memWf, hinv.pcBound, hinv.stackBound⟩

/-- Settles O16: a step that retires no instruction changes at most the latch. -/
theorem stepKeepsTheInvariant : Obligations.StepKeepsTheInvariant := by
  intro s t hinv hstep
  obtain ⟨-, rfl⟩ | ⟨-, f, rfl⟩ | ⟨i, hi⟩ := step_next_cases hstep
  · exact hinv
  · exact hinv.setFault (some f)
  · exact hinv.retires hi

end Sys2Proof.Machine

/-! ## Proofs: runs of transactions keep the invariant -/

namespace Sys2Proof.Machine

/-- STEP leaves the state its step answers. -/
theorem step_eq_next_doStep (s : State) : step s = .next s.doStep := by
  obtain ⟨t, ht⟩ := stepAlwaysAnswersNext s
  simp only [State.doStep, ht]

/-- A block write inside memory keeps the invariant. -/
theorem State.Inv.pokeBytes {s : State} (hinv : s.Inv) {a : Nat} {bs : List Byte} (h : a + bs.length ≤ memorySize) :
    (s.pokeBytes a bs).Inv := by
  refine ⟨hinv.memWf.pokeBytes h, ?_, fun k => ?_⟩
  · rw [pokeBytes_pc]; exact hinv.pcBound
  · rw [pokeBytes_eq]; exact hinv.stackBound k

/-- LOAD writes its image inside memory, or an oversize one not at all (00_scope R13). -/
theorem State.Inv.afterLoad {s : State} (hinv : s.Inv) (bytes : List Byte) : (s.after (.load bytes)).Inv := by
  by_cases hfits : bytes.length ≤ maxImage
  · have hin : 0x200 + bytes.length ≤ memorySize := by unfold maxImage at hfits; unfold memorySize; omega
    rw [State.after, load_fits s hfits]
    exact hinv.pokeBytes hin
  · rw [State.after, load_oversize s (Nat.lt_of_not_le hfits)]
    exact hinv

/-- Each transaction keeps the invariant. -/
theorem State.Inv.after {s : State} (hinv : s.Inv) (t : Transaction) : (s.after t).Inv := by
  cases t with
  | step => exact stepKeepsTheInvariant s s.doStep hinv (step_eq_next_doStep s)
  | reset => exact resetWith_inv s.params s.draws
  | load bytes => exact hinv.afterLoad bytes
  | tick => exact ⟨hinv.memWf, hinv.pcBound, hinv.stackBound⟩
  | readState => exact hinv

/-- Settles O18, by induction on the list of transactions: each one keeps the invariant. -/
theorem everyRunKeepsTheInvariant : Obligations.EveryRunKeepsTheInvariant := by
  intro s ts hinv
  induction ts generalizing s with
  | nil => exact hinv
  | cons t ts ih => exact ih (s.after t) (hinv.after t)

end Sys2Proof.Machine

/-! ## Proofs: jumps and calls -/

namespace Sys2Proof.Machine

/-- Settles O26: both instructions are a jump, to a target that is a sum of naturals. -/
theorem jumpsSetPcAlone : Obligations.JumpsSetPcAlone := by
  intro s nnn
  constructor
  · exact ⟨s.jumpTo (zextAddr nnn), rfl, zextAddr_toNat nnn, jumpTo_changesOnly s _⟩
  · exact ⟨s.jumpTo (zextByte (s.getV 0) + zextAddr nnn), rfl, jpV0_target_toNat (s.getV 0) nnn, jumpTo_changesOnly s _⟩

/-- Settles O27: CALL is a push of pc, then a jump, and changes what these two change. -/
theorem callPushesItsOwnAddress : Obligations.CallPushesItsOwnAddress := by
  intro s nnn h
  have hframe := (push_changesOnly s.pc h).andThen (jumpTo_changesOnly _ (zextAddr nnn))
  exact ⟨_, execCall_ok s nnn h.ne, Vector.getElem_set_self h, rfl, zextAddr_toNat nnn, hframe.mono fun _ => Or.symm⟩

end Sys2Proof.Machine

/-! ## Proofs: register loads and bitwise operations -/

namespace Sys2Proof.Machine

theorem getV_setV_self (s : State) (x : Reg) (v : Byte) : (s.setV x v).getV x = v :=
  (State.getV_setV s x x v).trans (if_pos rfl)

/-- An instruction that writes Vx and advances, whatever value it writes. -/
theorem exec_writes_vx_alone {i : Instr} {s : State} {x : Reg} {v : Byte} (h : exec i s = .next (s.setV x v).advance) :
    ∃ t, exec i s = .next t ∧ t.getV x = v ∧ t.pc = s.pc + 2 ∧ s.changesOnly t fun e => e = .v x ∨ e = .pc :=
  ⟨_, h, getV_setV_self s x v, rfl, (setV_changesOnly s x v).advance⟩

/-- Settles O34: each of the five is one write of Vx, of a value computed before the step, and the normal advance. -/
theorem loadsAndBitwiseOpsWriteVxAlone : Obligations.LoadsAndBitwiseOpsWriteVxAlone := by
  intro s x y nn
  have hImm : exec (.ldImm x nn) s = .next (s.setV x nn).advance := rfl
  have hReg : exec (.ldReg x y) s = .next (s.setV x (s.getV y)).advance := rfl
  have hOr : exec (.or x y) s = .next (s.setV x (s.getV x ||| s.getV y)).advance := rfl
  have hAnd : exec (.and x y) s = .next (s.setV x (s.getV x &&& s.getV y)).advance := rfl
  have hXor : exec (.xor x y) s = .next (s.setV x (s.getV x ^^^ s.getV y)).advance := rfl
  exact ⟨exec_writes_vx_alone hImm, exec_writes_vx_alone hReg, exec_writes_vx_alone hOr, exec_writes_vx_alone hAnd,
    exec_writes_vx_alone hXor⟩

end Sys2Proof.Machine

/-! ## Proofs: the accesses through I -/

namespace Sys2Proof.Machine

/-! ### The digits of LD_B -/

theorem byte_toNat_ofNat {n : Nat} (h : n ≤ 255) : (BitVec.ofNat 8 n).toNat = n :=
  (BitVec.toNat_ofNat n 8).trans (Nat.mod_eq_of_lt (by omega))

/-- A store of the digits of `v` puts its hundreds, tens and ones at three addresses in turn (43_index_memory R153). -/
theorem peek_pokeBytes_bcdDigits (s : State) (a : Nat) (v : Byte) :
    ((s.pokeBytes a (bcdDigits v)).peek a).toNat = v.toNat / 100 ∧
    ((s.pokeBytes a (bcdDigits v)).peek (a + 1)).toNat = v.toNat / 10 % 10 ∧
    ((s.pokeBytes a (bcdDigits v)).peek (a + 2)).toNat = v.toNat % 10 := by
  have hv := v.isLt
  have hdigit := peek_pokeBytes_getElem s a (bcdDigits v)
  refine ⟨?_, ?_, ?_⟩
  · exact (congrArg BitVec.toNat (hdigit 0 (Nat.succ_pos 2))).trans (byte_toNat_ofNat (by omega))
  · exact (congrArg BitVec.toNat (hdigit 1 (by simp [bcdDigits]))).trans (byte_toNat_ofNat (by omega))
  · exact (congrArg BitVec.toNat (hdigit 2 (by simp [bcdDigits]))).trans (byte_toNat_ofNat (by omega))

/-- Settles O40: the three bytes are quotients and remainders of Vx, and the frame is that of LD_B. -/
theorem bcdStoresThreeDigits : Obligations.BcdStoresThreeDigits := by
  intro s x hfits
  have hin : s.i.toNat + 3 ≤ memorySize := by unfold memorySize; omega
  have hrun := execLdB_ok s x hin
  obtain ⟨hhundreds, htens, hones⟩ := peek_pokeBytes_bcdDigits s s.i.toNat (s.getV x)
  have hv := (s.getV x).isLt
  refine ⟨_, hrun, ?_, ?_, ?_, ?_, ?_, (execLdB_changesOnly hin hrun).mono fun _ => Or.symm⟩
  · rw [State.advance_pc, pokeBytes_pc]
  all_goals simp only [indexAddress, Nat.add_zero, State.advance_peek, hhundreds, htens, hones]; omega

/-! ### The block transfers -/

theorem fits_of_blockLength {s : State} {x : Reg} (h : s.i.toNat + x.toNat ≤ 0xFFF) :
    s.i.toNat + blockLength x ≤ memorySize := by
  unfold blockLength memorySize
  omega

/-- The post-increment of a transfer inside memory does not wrap (43_index_memory R156). -/
theorem bumpIndex_i_toNat {s : State} {x : Reg} (h : s.i.toNat + x.toNat ≤ 0xFFF) :
    (s.bumpIndex x).i.toNat = s.i.toNat + x.toNat + 1 := by
  have hx := x.isLt
  rw [State.bumpIndex_i, blockLength, BitVec.toNat_add, BitVec.toNat_ofNat]
  omega

@[simp] theorem pokeBytes_i (s : State) (a : Nat) (bs : List Byte) : (s.pokeBytes a bs).i = s.i := by
  rw [pokeBytes_eq]

@[simp] theorem setRegisters_i (s : State) (k : Nat) (bs : List Byte) : (setRegisters s k bs).i = s.i := by
  rw [setRegisters_eq]

/-- A block write from V0 on gives V[r] the r-th byte. -/
theorem getV_setRegisters_getElem (s : State) (bs : List Byte) (hlen : bs.length ≤ 16) (r : Reg) (hr : r.toNat < bs.length) :
    (setRegisters s 0 bs).getV r = bs[r.toNat] := by
  have hfits : 0 + bs.length ≤ 16 := by omega
  rw [getV_setRegisters bs s 0 hfits r, if_pos (Nat.zero_le _), Nat.sub_zero, List.getElem?_eq_getElem hr, Option.getD_some]

/-- Settles O41: the stored bytes are V0 to Vx, the post-increment does not wrap, and the frame is that of LD_MEM_VX. -/
theorem storeRegistersWritesXPlusOneBytes : Obligations.StoreRegistersWritesXPlusOneBytes := by
  intro s x hfits
  have hin := fits_of_blockLength hfits
  have hrun := execLdMemVx_ok s x hin
  refine ⟨_, hrun, ?_, ?_, fun r hr => ?_, (execLdMemVx_changesOnly hin hrun).mono fun _ => Or.symm⟩
  · rw [State.advance_pc, State.bumpIndex_pc, pokeBytes_pc]
  · rw [State.advance_i, bumpIndex_i_toNat (by rwa [pokeBytes_i]), pokeBytes_i]
  · rw [State.advance_peek, State.bumpIndex_peek, indexAddress, peek_pokeBytes_registerList s x s.i.toNat r.toNat hr,
      BitVec.ofNat_toNat, BitVec.setWidth_eq]

/-- Settles O42: the loaded bytes are those at I to I + x, the post-increment does not wrap, and the frame is that of
LD_VX_MEM. -/
theorem loadRegistersReadsXPlusOneBytes : Obligations.LoadRegistersReadsXPlusOneBytes := by
  intro s x hfits
  have hin := fits_of_blockLength hfits
  have hrun := execLdVxMem_ok s x hin
  refine ⟨_, hrun, ?_, ?_, fun r hr => ?_, (execLdVxMem_changesOnly hin hrun).mono fun _ => Or.symm⟩
  · rw [State.advance_pc, State.bumpIndex_pc, setRegisters_pc]
  · rw [State.advance_i, bumpIndex_i_toNat (by rwa [setRegisters_i]), setRegisters_i]
  · have hlen : ((List.range (blockLength x)).map fun k => s.peek (s.i.toNat + k)).length = blockLength x := by simp
    have hlt : r.toNat < blockLength x := Nat.lt_succ_of_le hr
    rw [State.advance_getV, State.bumpIndex_getV,
      getV_setRegisters_getElem s _ (hlen.trans_le (blockLength_le x)) r (hlt.trans_eq hlen.symm), List.getElem_map,
      List.getElem_range, indexAddress]

end Sys2Proof.Machine

/-! ## Proofs: accesses that leave memory -/

namespace Sys2Proof.Machine

/-- The payload of a range fault, max(a, 0x1000), as a word (20_memory R53). -/
theorem lowestOutside_eq_ofNat_max (a : Word) : lowestOutside a = BitVec.ofNat 16 (max a.toNat 0x1000) := by
  rw [← lowestOutside_toNat, BitVec.ofNat_toNat, BitVec.setWidth_eq]

/-- Settles O43: past its premise each access is longer than what memory holds from I, so its range check fails whole. -/
theorem accessAcrossTheEndFaultsWhole : Obligations.AccessAcrossTheEndFaultsWhole := by
  intro s x y n f hf
  rw [← lowestOutside_eq_ofNat_max] at hf
  subst hf
  refine ⟨fun h => execLdB_fault s x ?_, fun h => ?_, fun hn h => execDrw_fault s x y n ⟨hn.ne', ?_⟩⟩
  · unfold memorySize; omega
  · have hout : memorySize < s.i.toNat + blockLength x := by unfold memorySize blockLength; omega
    exact ⟨execLdMemVx_fault s x hout, execLdVxMem_fault s x hout⟩
  · unfold memorySize; omega

end Sys2Proof.Machine

/-! ## Proofs: the framebuffer

A sprite is drawn as one list of cells, those under its set bits, flipped in turn. No two of them are the same cell,
since a sprite has at most 15 rows of 8 columns and the axes are 32 and 64 long: so each is flipped once, and meets the
value it had before the draw. -/

namespace Sys2Proof.Machine

/-- Settles O46: every cell of the clear framebuffer is 0, and the frame is that of CLS. -/
theorem clearScreenClearsEveryCell : Obligations.ClearScreenClearsEveryCell :=
  ⟨rfl, fun _ => ⟨_, rfl, Framebuffer.cell_clear, rfl, (execCls_changesOnly rfl).mono fun _ => Or.symm⟩⟩

/-! ### Flipping a list of cells -/

/-- The cells of the list flipped in turn, each noting a collision where it was set. -/
def Canvas.flipCells (k : Canvas) (cells : List (Fin 64 × Fin 32)) : Canvas :=
  cells.foldl (fun k p => k.flipCell p.1 p.2) k

theorem Canvas.flipCells_cons (k : Canvas) (p : Fin 64 × Fin 32) (cells : List (Fin 64 × Fin 32)) :
    k.flipCells (p :: cells) = (k.flipCell p.1 p.2).flipCells cells := rfl

theorem Canvas.flipCells_append (k : Canvas) (cells cells' : List (Fin 64 × Fin 32)) :
    k.flipCells (cells ++ cells') = (k.flipCells cells).flipCells cells' := List.foldl_append

theorem Canvas.cell_flipCell (k : Canvas) (p q : Fin 64 × Fin 32) :
    Framebuffer.cell (k.flipCell p.1 p.2).fb q.1 q.2 = (Framebuffer.cell k.fb q.1 q.2 ^^ decide (q = p)) := by
  simp only [Canvas.flipCell, Framebuffer.cell_flip, Prod.ext_iff]

/-- Cells without a repeat are flipped once each, and no other cell is. -/
theorem Canvas.cell_flipCells {cells : List (Fin 64 × Fin 32)} (q : Fin 64 × Fin 32) (hnodup : cells.Nodup) : ∀ k : Canvas,
    Framebuffer.cell (k.flipCells cells).fb q.1 q.2 = (Framebuffer.cell k.fb q.1 q.2 ^^ decide (q ∈ cells)) := by
  induction cells with
  | nil => intro k; simp [Canvas.flipCells]
  | cons p cells ih =>
    intro k
    obtain ⟨hp, hcells⟩ := List.nodup_cons.1 hnodup
    rw [Canvas.flipCells_cons, ih hcells, Canvas.cell_flipCell]
    by_cases hq : q = p
    · subst hq; simp [hp]
    · simp [hq]

/-- Cells without a repeat collide where one of them was set before the first flip. -/
theorem Canvas.collision_flipCells {cells : List (Fin 64 × Fin 32)} (hnodup : cells.Nodup) : ∀ k : Canvas,
    (k.flipCells cells).collision = true ↔ k.collision = true ∨ ∃ p ∈ cells, Framebuffer.cell k.fb p.1 p.2 = true := by
  induction cells with
  | nil => intro k; simp [Canvas.flipCells]
  | cons p cells ih =>
    intro k
    obtain ⟨hp, hcells⟩ := List.nodup_cons.1 hnodup
    have hrest : ∀ q ∈ cells, Framebuffer.cell (k.flipCell p.1 p.2).fb q.1 q.2 = Framebuffer.cell k.fb q.1 q.2 := by
      intro q hq
      rw [Canvas.cell_flipCell, decide_eq_false fun h : q = p => hp (h ▸ hq), Bool.xor_false]
    have hfirst : (k.flipCell p.1 p.2).collision = (k.collision || Framebuffer.cell k.fb p.1 p.2) := rfl
    rw [Canvas.flipCells_cons, ih hcells, hfirst, Bool.or_eq_true, or_assoc, List.exists_mem_cons_iff]
    exact or_congr_right (or_congr_right (exists_congr fun q => and_congr_right fun hq => by rw [hrest q hq]))

/-! ### The cells of a sprite -/

/-- The cells under the set bits of one sprite byte drawn at (`px`, `py`), left to right (44_display R171, R172). -/
def rowCells (b : Byte) (px py : Nat) : List (Fin 64 × Fin 32) :=
  ((List.range 8).filter (spriteBit b)).map fun c => (wrapColumn (px + c), wrapRow py)

/-- The cells under the set bits of a sprite drawn at (`px`, `py`), top to bottom (44_display R171). -/
def spriteCells (px : Nat) : Nat → List Byte → List (Fin 64 × Fin 32)
  | _, [] => []
  | py, b :: bs => rowCells b px py ++ spriteCells px (py + 1) bs

theorem Canvas.drawByte_eq_flipCells (k : Canvas) (b : Byte) (px py : Nat) :
    k.drawByte b px py = k.flipCells (rowCells b px py) := by
  rw [Canvas.flipCells, rowCells, List.foldl_map, List.foldl_filter]
  rfl

theorem Canvas.drawSprite_eq_flipCells (px : Nat) (bs : List Byte) : ∀ (k : Canvas) (py : Nat),
    Canvas.drawSprite px k py bs = k.flipCells (spriteCells px py bs) := by
  induction bs with
  | nil => intro k py; rfl
  | cons b bs ih =>
    intro k py
    rw [Canvas.drawSprite, ih, Canvas.drawByte_eq_flipCells, spriteCells, Canvas.flipCells_append]

theorem mem_rowCells {b : Byte} {px py : Nat} {u : Fin 64} {w : Fin 32} :
    (u, w) ∈ rowCells b px py ↔ ∃ c, c < 8 ∧ pixelReaches b px py c u w := by
  simp only [rowCells, List.mem_map, List.mem_filter, List.mem_range, Prod.mk.injEq, pixelReaches, and_assoc, eq_comm]

theorem mem_spriteCells {px : Nat} {u : Fin 64} {w : Fin 32} (bs : List Byte) : ∀ py : Nat,
    (u, w) ∈ spriteCells px py bs ↔
      ∃ (r : Nat) (hr : r < bs.length) (c : Nat), c < 8 ∧ pixelReaches bs[r] px (py + r) c u w := by
  induction bs with
  | nil => intro py; simp [spriteCells]
  | cons b bs ih =>
    intro py
    rw [spriteCells, List.mem_append, mem_rowCells, ih]
    constructor
    · rintro (h | ⟨r, hr, h⟩)
      · exact ⟨0, Nat.zero_lt_succ _, h⟩
      · rw [Nat.add_assoc, Nat.add_comm 1] at h
        exact ⟨r + 1, Nat.succ_lt_succ hr, h⟩
    · rintro ⟨_ | r, hr, h⟩
      · exact .inl h
      · refine .inr ⟨r, Nat.lt_of_succ_lt_succ hr, ?_⟩
        rw [Nat.add_assoc, Nat.add_comm 1]
        exact h

/-- Eight columns in a row do not wrap onto each other. -/
theorem rowCells_nodup (b : Byte) (px py : Nat) : (rowCells b px py).Nodup := by
  refine List.Nodup.map_on (fun c hc c' hc' h => ?_) (List.nodup_range.filter _)
  have hcol : (px + c) % 64 = (px + c') % 64 := congrArg (fun p => p.1.val) h
  have hlt := List.mem_range.1 (List.mem_of_mem_filter hc)
  have hlt' := List.mem_range.1 (List.mem_of_mem_filter hc')
  omega

/-- Up to 32 rows do not wrap onto each other. -/
theorem spriteCells_nodup (px : Nat) (bs : List Byte) : ∀ py : Nat, bs.length ≤ 32 → (spriteCells px py bs).Nodup := by
  induction bs with
  | nil => intro py _; exact List.nodup_nil
  | cons b bs ih =>
    intro py hlen
    rw [List.length_cons] at hlen
    refine List.nodup_append'.2 ⟨rowCells_nodup b px py, ih (py + 1) (by omega), ?_⟩
    rintro ⟨u, w⟩ hfirst hrest
    obtain ⟨_, _, _, _, hw⟩ := mem_rowCells.1 hfirst
    obtain ⟨r, hr, _, _, _, _, hw'⟩ := (mem_spriteCells bs (py + 1)).1 hrest
    have hrow : py % 32 = (py + 1 + r) % 32 := congrArg Fin.val (hw.symm.trans hw')
    omega

/-! ### What DRW draws -/

/-- The cells DRW flips, in the order it flips them. -/
def State.drawnCells (s : State) (x y : Reg) (n : BitVec 4) : List (Fin 64 × Fin 32) :=
  spriteCells (s.getV x).toNat (s.getV y).toNat (spriteRows s n)

theorem spriteRows_length (s : State) (n : BitVec 4) : (spriteRows s n).length = n.toNat := by simp [spriteRows]

theorem drawn_eq_flipCells (s : State) (x y : Reg) (n : BitVec 4) :
    drawn s x y (spriteRows s n) = Canvas.flipCells { fb := s.fb, collision := false } (s.drawnCells x y n) :=
  Canvas.drawSprite_eq_flipCells _ _ _ _

theorem State.drawnCells_nodup (s : State) (x y : Reg) (n : BitVec 4) : (s.drawnCells x y n).Nodup :=
  spriteCells_nodup _ _ _ (by rw [spriteRows_length]; omega)

/-- The cells DRW flips are those the statements call covered. -/
theorem State.mem_drawnCells {s : State} {x y : Reg} {n : BitVec 4} {u : Fin 64} {w : Fin 32} :
    (u, w) ∈ s.drawnCells x y n ↔ s.spriteCovers x y n.toNat u w := by
  simp only [State.drawnCells, mem_spriteCells, spriteRows, List.length_map, List.length_range, List.getElem_map,
    List.getElem_range, pixelReaches, wrapColumn, wrapRow, Fin.ext_iff, spriteBit, State.spriteCovers, indexAddress, exists_prop]

/-- A cell that the sprite of DRW covers is flipped (44_display R171). -/
theorem cell_drawn_of_covers {s : State} {x y : Reg} {n : BitVec 4} {u : Fin 64} {w : Fin 32}
    (h : s.spriteCovers x y n.toNat u w) :
    Framebuffer.cell (drawn s x y (spriteRows s n)).fb u w = !Framebuffer.cell s.fb u w := by
  rw [drawn_eq_flipCells, Canvas.cell_flipCells (u, w) (s.drawnCells_nodup x y n),
    decide_eq_true (State.mem_drawnCells.2 h), Bool.xor_true]

/-- DRW collides where its sprite covers a set cell (44_display R171, R173). -/
theorem collision_drawn_iff (s : State) (x y : Reg) (n : BitVec 4) :
    (drawn s x y (spriteRows s n)).collision = true ↔
      ∃ u w, s.spriteCovers x y n.toNat u w ∧ Framebuffer.cell s.fb u w = true := by
  rw [drawn_eq_flipCells, Canvas.collision_flipCells (s.drawnCells_nodup x y n)]
  simp only [Prod.exists, State.mem_drawnCells, Bool.false_eq_true, false_or]

theorem fits_of_rows {s : State} {n : BitVec 4} (h : n.toNat = 0 ∨ s.i.toNat + n.toNat - 1 ≤ 0xFFF) :
    n.toNat = 0 ∨ s.i.toNat + n.toNat ≤ memorySize := by
  unfold memorySize
  omega

/-- Settles O47: the covered cells are a list without a repeat, each flipped once; the flag is whether one of them was
set; the frame is that of DRW. -/
theorem drawXorsTheSpriteWithCollision : Obligations.DrawXorsTheSpriteWithCollision := by
  intro s x y n hrows
  have hin := fits_of_rows hrows
  have hrun := execDrw_ok s x y n hin
  have hcollision := collision_drawn_iff s x y n
  refine ⟨_, hrun, rfl, fun u w => cell_drawn_of_covers, fun hset => ?_, fun hclear => ?_,
    (execDrw_changesOnly hin hrun).mono fun _ => Or.symm⟩
  · rw [State.advance_getV, State.getV_setFlag, if_pos rfl, hcollision.2 hset]
    rfl
  · have hnone : (drawn s x y (spriteRows s n)).collision = false := by
      refine Bool.eq_false_iff.2 fun h => ?_
      obtain ⟨u, w, hcov, hset⟩ := hcollision.1 h
      exact Bool.false_ne_true ((hclear u w hcov).symm.trans hset)
    rw [State.advance_getV, State.getV_setFlag, if_pos rfl, hnone]
    rfl

/-! ### A draw and the same draw again -/

/-- What a sprite covers rests on its coordinates, on I and on memory alone. -/
theorem spriteCovers_congr {s t : State} {x y : Reg} {n : Nat} {u : Fin 64} {w : Fin 32} (hx : t.getV x = s.getV x)
    (hy : t.getV y = s.getV y) (hi : t.i = s.i) (hmem : ∀ a, t.peek a = s.peek a) :
    t.spriteCovers x y n u w ↔ s.spriteCovers x y n u w := by
  simp only [State.spriteCovers, indexAddress, hx, hy, hi, hmem]

/-- Settles O48: the first draw changes nothing that its sprite rests on, so the second flips the same cells back. -/
theorem drawingTwiceRestoresTheFramebuffer : Obligations.DrawingTwiceRestoresTheFramebuffer := by
  intro s x y n hx hy hrows
  obtain ⟨t, hrun, -, hflip, -, -, hframe⟩ := drawXorsTheSpriteWithCollision s x y n hrows
  have hi : t.i = s.i := hframe .i (by simp)
  have hcovers : ∀ u w, t.spriteCovers x y n.toNat u w ↔ s.spriteCovers x y n.toNat u w := fun u w =>
    spriteCovers_congr (hframe (.v x) (by simp [hx])) (hframe (.v y) (by simp [hy])) hi fun a => hframe (.byte a) (by simp)
  obtain ⟨t', hrun', -, hflip', -, -, hframe'⟩ := drawXorsTheSpriteWithCollision t x y n (by rwa [hi])
  refine ⟨t, t', hrun, hrun', Framebuffer.ext_cell fun u w => ?_⟩
  by_cases hcov : s.spriteCovers x y n.toNat u w
  · rw [hflip' u w ((hcovers u w).2 hcov), hflip u w hcov, Bool.not_not]
  · have hfirst : Framebuffer.cell t.fb u w = Framebuffer.cell s.fb u w := hframe (.cell u w) (by simp [hcov])
    have hsecond : Framebuffer.cell t'.fb u w = Framebuffer.cell t.fb u w := hframe' (.cell u w) (by simp [hcovers, hcov])
    exact hsecond.trans hfirst

end Sys2Proof.Machine

/-! ## Proofs: timer instructions -/

namespace Sys2Proof.Machine

/-- Settles O49: each of the three is one write, of a value read before it, and the normal advance. -/
theorem timerInstructionsCopyTheCurrentValue : Obligations.TimerInstructionsCopyTheCurrentValue := by
  intro s x
  have hVxDt : exec (.ldVxDt x) s = .next (s.setV x s.dt).advance := rfl
  have hDtVx : exec (.ldDtVx x) s = .next { s with dt := s.getV x }.advance := rfl
  have hStVx : exec (.ldStVx x) s = .next { s with st := s.getV x }.advance := rfl
  refine ⟨exec_writes_vx_alone hVxDt, ?_, ?_⟩
  · exact ⟨_, hDtVx, rfl, rfl, (setDt_changesOnly s (s.getV x)).advance⟩
  · exact ⟨_, hStVx, rfl, rfl, (setSt_changesOnly s (s.getV x)).advance⟩

end Sys2Proof.Machine

/-! ## Proofs: keypad -/

namespace Sys2Proof.Machine

/-- The value of a word in format XNN (30_encoding R72). -/
theorem formatXNN_toNat (h : BitVec 4) (x : Reg) (nn : Byte) :
    (formatXNN h x nn).toNat = 4096 * h.toNat + 256 * x.toNat + nn.toNat := by
  rw [formatXNN, BitVec.toNat_append, BitVec.toNat_append, ← Nat.shiftLeft_add_eq_or_of_lt x.isLt,
    ← Nat.shiftLeft_add_eq_or_of_lt nn.isLt, Nat.shiftLeft_eq, Nat.shiftLeft_eq]
  omega

/-- A word in format XNN whose digits other than x make `base`. -/
theorem formatXNN_eq_ofNat {h : BitVec 4} {nn : Byte} {base : Nat} (hbase : 4096 * h.toNat + nn.toNat = base) (x : Reg) :
    formatXNN h x nn = BitVec.ofNat 16 (base + 256 * x.toNat) := by
  rw [← hbase, Nat.add_right_comm, ← formatXNN_toNat, BitVec.ofNat_toNat, BitVec.setWidth_eq]

/-- Settles O52: each instruction takes the fault of its own encoding, whose digits other than x are fixed. -/
theorem keypadInstructionsAlwaysFault : Obligations.KeypadInstructionsAlwaysFault := by
  intro s x
  have hskp : encode (.skp x) = BitVec.ofNat 16 (0xE09E + 256 * x.toNat) := formatXNN_eq_ofNat rfl x
  have hsknp : encode (.sknp x) = BitVec.ofNat 16 (0xE0A1 + 256 * x.toNat) := formatXNN_eq_ofNat rfl x
  have hldVxK : encode (.ldVxK x) = BitVec.ofNat 16 (0xF00A + 256 * x.toNat) := formatXNN_eq_ofNat rfl x
  rw [← hskp, ← hsknp, ← hldVxK]
  exact ⟨rfl, rfl, rfl⟩

end Sys2Proof.Machine

/-! ## Proofs: the table of causes and its order -/

namespace Sys2Proof.Machine

/-- An instruction that raises no fault leaves the latch as it was. -/
theorem exec_fault {i : Instr} {s t : State} (hraises : raises i s = none) (h : exec i s = .next t) : t.fault = s.fault :=
  everyInstructionWritesOnlyItsPieces i s t hraises h .fault (not_or.2 ⟨writes_fault i s, nofun⟩)

/-- Settles O12: an instruction takes the fault the table gives it, and where it gives none the instruction still answers
a next state, whose latch no table lets it write. -/
theorem instructionsFaultExactlyByTheTable : Obligations.InstructionsFaultExactlyByTheTable := by
  intro i s
  refine ⟨fun _ => exec_of_raises, fun hraises => ?_⟩
  obtain ⟨t, ht⟩ := exec_next i s
  exact ⟨t, ht, exec_fault hraises ht⟩

/-- STEP leaves the state that its step is known to answer. -/
theorem doStep_of_step_next {s t : State} (h : step s = .next t) : s.doStep = t :=
  Host.Outcome.next.inj ((step_eq_next_doStep s).symm.trans h)

/-- STEP responds with the fault that its step is known to latch. -/
theorem doStep_response_of_latches {s t : State} {f : Fault} (h : step s = .next t) (hf : t.fault = some f) :
    s.doStep.response = .fault f := by
  rw [doStep_of_step_next h, response_of_fault hf]

/-- From a clear latch, STEP responds with OK where its step is an instruction that raises no fault. -/
theorem doStep_response_of_passes {s : State} {i : Instr} (hclear : s.fault = none) (hstep : step s = exec i s)
    (hraises : raises i s = none) : s.doStep.response = .ok := by
  obtain ⟨t, ht⟩ := exec_next i s
  rw [doStep_of_step_next (hstep.trans ht), response_eq_ok_iff, exec_fault hraises ht, hclear]

/-- Settles O6: the equation of each outcome of a step, in the order of the checks, gives the latch and so the response. -/
theorem stepReportsTheFirstFaultInOrder : Obligations.StepReportsTheFirstFaultInOrder := by
  intro s
  refine ⟨fun f hf => ?latched, fun hclear hpc => ?fetchFails, fun hclear hpc r hdecode => ?decodeFails,
    fun hclear hpc i hdecode => ?runs⟩
  case latched => exact doStep_response_of_latches (step_latched hf) hf
  case fetchFails =>
    exact ⟨_, doStep_response_of_latches (step_of_fetch_error hclear (fetch_error s hpc)) rfl⟩
  case decodeFails => exact doStep_response_of_latches (step_of_decode_error hclear (fetch_ok s hpc) hdecode) rfl
  case runs =>
    have hstep : step s = exec i s := step_of_decode_ok hclear (fetch_ok s hpc) hdecode
    cases hraises : raises i s with
    | some f => exact doStep_response_of_latches (hstep.trans (exec_of_raises hraises)) rfl
    | none => exact doStep_response_of_passes hclear hstep hraises

end Sys2Proof.Machine

/-! ## Proofs: encoding and decoding

Each secondary dispatch (30_encoding R73) has two lemmas: the words it decodes are the encodings of what they decode to,
and which words it rejects. -/

namespace Sys2Proof

/-- Decoding is a left inverse of encoding, format by format: the fields of a word built from fields are those fields. -/
theorem decode_encode (i : Instr) : decode (encode i) = .ok i := by
  cases i with
  | cls | ret => rfl
  | jp | call | ldI | jpV0 => simp [encode, decode]
  | seImm | sneImm | ldImm | addImm | rnd => simp [encode, decode]
  | seReg | sneReg | drw => simp [encode, decode]
  | ldReg | or | and | xor | addReg | sub | shr | subn | shl => simp [encode, decode, decodeAlu]
  | skp | sknp => simp [encode, decode, decodeKey]
  | ldVxDt | ldVxK | ldDtVx | ldStVx | addI | ldF | ldB | ldMemVx | ldVxMem => simp [encode, decode, decodeMisc]

/-- Settles O1: the two bytes of a word are that word again, so the bytes of an instruction decode as its word does. -/
theorem encodeThenDecodeGivesTheInstruction : Obligations.EncodeThenDecodeGivesTheInstruction := by
  intro i _
  refine ⟨decode_encode i, fun rest => ?_⟩
  change decodeBytes (highByte (encode i) :: lowByte (encode i) :: rest) = _
  simp only [decodeBytes, bigEndian_bytes, decode_encode]

/-- Settles O4: each word is the encoding of its instruction. -/
theorem specWordsDecodeAsWritten : Obligations.SpecWordsDecodeAsWritten :=
  ⟨decode_encode .cls, decode_encode .ret, decode_encode (.call 0x210), decode_encode (.addImm 3 0x03),
    decode_encode (.shl 1 2), decode_encode (.drw 1 2 5), decode_encode (.sknp 3), decode_encode (.ldVxMem 5),
    decode_encode (.ldStVx 4), decode_encode (.rnd 5 0x0F)⟩

/-! ### The fields of a word -/

theorem fieldH_toNat (op : Word) : (fieldH op).toNat = op.toNat / 4096 := by
  have h := op.isLt
  rw [fieldH, BitVec.extractLsb'_toNat, Nat.shiftRight_eq_div_pow]
  omega

theorem fieldX_toNat (op : Word) : (fieldX op).toNat = op.toNat / 256 % 16 := by
  rw [fieldX, BitVec.extractLsb'_toNat, Nat.shiftRight_eq_div_pow]

theorem fieldY_toNat (op : Word) : (fieldY op).toNat = op.toNat / 16 % 16 := by
  rw [fieldY, BitVec.extractLsb'_toNat, Nat.shiftRight_eq_div_pow]

theorem fieldN_toNat (op : Word) : (fieldN op).toNat = op.toNat % 16 := by
  rw [fieldN, BitVec.extractLsb'_toNat, Nat.shiftRight_zero]

theorem fieldNN_toNat (op : Word) : (fieldNN op).toNat = op.toNat % 256 := by
  rw [fieldNN, BitVec.extractLsb'_toNat, Nat.shiftRight_zero]

theorem fieldNNN_toNat (op : Word) : (fieldNNN op).toNat = op.toNat % 4096 := by
  rw [fieldNNN, BitVec.extractLsb'_toNat, Nat.shiftRight_zero]

/-- The value of a word in format NNN (30_encoding R72). -/
theorem formatNNN_toNat (h : BitVec 4) (nnn : Addr12) : (formatNNN h nnn).toNat = 4096 * h.toNat + nnn.toNat := by
  rw [formatNNN, BitVec.toNat_append, ← Nat.shiftLeft_add_eq_or_of_lt nnn.isLt, Nat.shiftLeft_eq]
  omega

/-- The value of a word in format XYN (30_encoding R72). -/
theorem formatXYN_toNat (h : BitVec 4) (x y : Reg) (n : BitVec 4) :
    (formatXYN h x y n).toNat = 4096 * h.toNat + 256 * x.toNat + 16 * y.toNat + n.toNat := by
  rw [formatXYN, BitVec.toNat_append, BitVec.toNat_append, BitVec.toNat_append, ← Nat.shiftLeft_add_eq_or_of_lt x.isLt,
    ← Nat.shiftLeft_add_eq_or_of_lt y.isLt, ← Nat.shiftLeft_add_eq_or_of_lt n.isLt, Nat.shiftLeft_eq, Nat.shiftLeft_eq,
    Nat.shiftLeft_eq]
  omega

/-- A word is its fields put together in format NNN. -/
theorem formatNNN_of_fields {op : Word} {h : BitVec 4} (hh : fieldH op = h) : formatNNN h (fieldNNN op) = op := by
  subst hh
  apply BitVec.eq_of_toNat_eq
  rw [formatNNN_toNat, fieldH_toNat, fieldNNN_toNat]
  omega

/-- A word is its fields put together in format XNN. -/
theorem formatXNN_of_fields {op : Word} {h : BitVec 4} {nn : Byte} (hh : fieldH op = h) (hnn : fieldNN op = nn) :
    formatXNN h (fieldX op) nn = op := by
  subst hh hnn
  apply BitVec.eq_of_toNat_eq
  rw [Machine.formatXNN_toNat, fieldH_toNat, fieldX_toNat, fieldNN_toNat]
  omega

/-- A word is its fields put together in format XYN. -/
theorem formatXYN_of_fields {op : Word} {h n : BitVec 4} (hh : fieldH op = h) (hn : fieldN op = n) :
    formatXYN h (fieldX op) (fieldY op) n = op := by
  subst hh hn
  apply BitVec.eq_of_toNat_eq
  rw [formatXYN_toNat, fieldH_toNat, fieldX_toNat, fieldY_toNat, fieldN_toNat]
  omega

/-- The last arm of `decode` is h = 0xF. -/
theorem nibble_eq_last {h : BitVec 4} : h ≠ 0x0 → h ≠ 0x1 → h ≠ 0x2 → h ≠ 0x3 → h ≠ 0x4 → h ≠ 0x5 → h ≠ 0x6 → h ≠ 0x7 →
    h ≠ 0x8 → h ≠ 0x9 → h ≠ 0xA → h ≠ 0xB → h ≠ 0xC → h ≠ 0xD → h ≠ 0xE → h = 0xF := by
  intros; bv_omega

/-! ### The words that decode -/

theorem encode_of_decodeZero {op : Word} {i : Instr} (h : decodeZero op = .ok i) : encode i = op := by
  unfold decodeZero at h
  split at h
  · next hop => cases h; exact hop.symm
  · split at h
    · next hop => cases h; exact hop.symm
    · cases h

theorem encode_of_decodeAlu {op : Word} {i : Instr} (hh : fieldH op = 0x8) (h : decodeAlu op = .ok i) : encode i = op := by
  unfold decodeAlu at h
  split at h
  all_goals cases h
  all_goals
    rename_i hn
    exact formatXYN_of_fields hh hn

theorem encode_of_decodeKey {op : Word} {i : Instr} (hh : fieldH op = 0xE) (h : decodeKey op = .ok i) : encode i = op := by
  unfold decodeKey at h
  split at h
  all_goals cases h
  all_goals
    rename_i hnn
    exact formatXNN_of_fields hh hnn

theorem encode_of_decodeMisc {op : Word} {i : Instr} (hh : fieldH op = 0xF) (h : decodeMisc op = .ok i) : encode i = op := by
  unfold decodeMisc at h
  split at h
  all_goals cases h
  all_goals
    rename_i hnn
    exact formatXNN_of_fields hh hnn

/-- A word whose every bit the decoder examines is the encoding of what it decodes to. -/
theorem encode_of_decode {op : Word} {i : Instr} (h5 : fieldH op ≠ 0x5) (h9 : fieldH op ≠ 0x9) (h : decode op = .ok i) :
    encode i = op := by
  unfold decode at h
  split at h
  case h_1 => exact encode_of_decodeZero h
  case h_2 hh | h_3 hh | h_11 hh | h_12 hh => cases h; exact formatNNN_of_fields hh
  case h_4 hh | h_5 hh | h_7 hh | h_8 hh | h_13 hh => cases h; exact formatXNN_of_fields hh rfl
  case h_6 hh => exact absurd hh h5
  case h_9 hh => exact encode_of_decodeAlu hh h
  case h_10 hh => exact absurd hh h9
  case h_14 hh => cases h; exact formatXYN_of_fields hh rfl
  case h_15 hh => exact encode_of_decodeKey hh h
  case h_16 => exact encode_of_decodeMisc (by apply nibble_eq_last <;> assumption) h

/-- Of 5XY_ and 9XY_ the decoder examines h, x and y, and the encoder writes n = 0 (30_encoding R77, R90). -/
theorem encode_of_decode_unexamined {op : Word} {i : Instr} (hh : fieldH op = 0x5 ∨ fieldH op = 0x9)
    (h : decode op = .ok i) : encode i = formatXYN (fieldH op) (fieldX op) (fieldY op) 0x0 := by
  obtain hh | hh := hh
  all_goals
    simp only [decode, hh] at h
    cases h
    rw [hh, encode]

/-- The high nibble of a word, by its value. -/
theorem fieldH_eq_iff {op : Word} {h : BitVec 4} : fieldH op = h ↔ op.toNat / 4096 = h.toNat := by
  rw [← BitVec.toNat_inj, fieldH_toNat]

/-- Settles O2: a word is made of its fields, of which decoding keeps all but bits 3:0 of 5XY_ and 9XY_. -/
theorem decodedWordIsItsInstructionsEncoding : Obligations.DecodedWordIsItsInstructionsEncoding := by
  intro op i hdecode
  refine ⟨fun ⟨h5, h9⟩ => encode_of_decode (mt fieldH_eq_iff.1 h5) (mt fieldH_eq_iff.1 h9) hdecode, fun hh => ?_⟩
  rw [encode_of_decode_unexamined (hh.imp fieldH_eq_iff.2 fieldH_eq_iff.2) hdecode, formatXYN_toNat, fieldH_toNat,
    fieldX_toNat, fieldY_toNat]
  change _ + 0 = _
  omega

/-! ### The words that do not decode -/

theorem decodeZero_rejects_iff (op : Word) : (∃ r, decodeZero op = .error r) ↔ op ≠ 0x00E0 ∧ op ≠ 0x00EE := by
  unfold decodeZero
  split
  · next hcls => simp [hcls]
  · next hcls =>
    split
    · next hret => simp [hret]
    · next hret => exact iff_of_true ⟨_, rfl⟩ ⟨hcls, hret⟩

theorem decodeAlu_rejects_iff (op : Word) :
    (∃ r, decodeAlu op = .error r) ↔ (fieldN op).toNat ∈ [0x8, 0x9, 0xA, 0xB, 0xC, 0xD, 0xF] := by
  unfold decodeAlu
  split
  case h_10 =>
    refine iff_of_true ⟨_, rfl⟩ ?_
    simp only [List.mem_cons, List.not_mem_nil, or_false, imp_false] at *
    bv_omega
  all_goals
    rename_i hn
    simp [hn]

theorem decodeKey_rejects_iff (op : Word) : (∃ r, decodeKey op = .error r) ↔ (fieldNN op).toNat ∉ [0x9E, 0xA1] := by
  unfold decodeKey
  split
  case h_3 =>
    refine iff_of_true ⟨_, rfl⟩ ?_
    simp only [List.mem_cons, List.not_mem_nil, or_false, imp_false] at *
    bv_omega
  all_goals
    rename_i hnn
    simp [hnn]

theorem decodeMisc_rejects_iff (op : Word) :
    (∃ r, decodeMisc op = .error r) ↔ (fieldNN op).toNat ∉ [0x07, 0x0A, 0x15, 0x18, 0x1E, 0x29, 0x33, 0x55, 0x65] := by
  unfold decodeMisc
  split
  case h_10 =>
    refine iff_of_true ⟨_, rfl⟩ ?_
    simp only [List.mem_cons, List.not_mem_nil, or_false, imp_false] at *
    bv_omega
  all_goals
    rename_i hnn
    simp [hnn]

/-- Only the four secondary dispatches reject a word. -/
theorem decode_rejects_iff (op : Word) : (∃ r, decode op = .error r) ↔
    (fieldH op = 0x0 ∧ ∃ r, decodeZero op = .error r) ∨ (fieldH op = 0x8 ∧ ∃ r, decodeAlu op = .error r) ∨
    (fieldH op = 0xE ∧ ∃ r, decodeKey op = .error r) ∨ (fieldH op = 0xF ∧ ∃ r, decodeMisc op = .error r) := by
  unfold decode
  split
  case h_16 =>
    have hF : fieldH op = 0xF := by apply nibble_eq_last <;> assumption
    simp [hF]
  all_goals
    rename_i hh
    simp [hh]

/-- Settles O3: each secondary dispatch rejects one of the four classes. -/
theorem illegalWordsAreTheFourClasses : Obligations.IllegalWordsAreTheFourClasses := by
  intro op
  simp only [decode_rejects_iff, decodeZero_rejects_iff, decodeAlu_rejects_iff, decodeKey_rejects_iff,
    decodeMisc_rejects_iff, fieldN_toNat, fieldNN_toNat, fieldH_eq_iff, ne_eq, ← BitVec.toNat_inj (x := op)]
  rfl

end Sys2Proof

/-! ## Proofs: TICK, RESET and the image -/

namespace Sys2Proof.Machine

theorem tickTimer_toNat (t : Byte) : (tickTimer t).toNat = t.toNat - 1 := by
  unfold tickTimer
  split
  · next h => subst h; rfl
  · bv_omega

/-- Settles O25: TICK is one write of each timer. -/
theorem tickCountsEachTimerDown : Obligations.TickCountsEachTimerDown := fun s =>
  ⟨tickTimer_toNat s.dt, tickTimer_toNat s.st, (setDt_changesOnly s (tickTimer s.dt)).andThen
    (setSt_changesOnly { s with dt := tickTimer s.dt } (tickTimer s.st))⟩

/-- Settles O22: RESET reads nothing but the model's own fields, and of these only FONT_DATA is seen, through memory. -/
theorem resetIsIdempotent : Obligations.ResetIsIdempotent := by
  refine ⟨fun _ => rfl, fun s t hfont e hparams hdraws => ?_⟩
  cases e with
  | byte a =>
    change t.doReset.peek a = s.doReset.peek a
    rw [doReset_peek, doReset_peek, hfont]
  | params => exact absurd rfl hparams
  | draws => exact absurd rfl hdraws
  | _ => rfl

/-- Past FONT_DATA a reset memory reads as 0 (10_state R39). -/
theorem resetWith_peek_of_le (p : Params) (draws : Nat) {a : Nat} (ha : 80 ≤ a) : (State.resetWith p draws).peek a = 0#8 :=
  dif_neg (Nat.not_lt.2 ha)

/-- The value of a fetched word: mem[pc] * 256 + mem[pc + 1] (20_memory R55). -/
theorem fetch_value {s : State} {a : Nat} (hpc : s.pc.toNat = a) (ha : a + 1 ≤ 0xFFF) :
    ∃ op, fetch s = .ok op ∧ op.toNat = (s.peek a).toNat * 256 + (s.peek (a + 1)).toNat := by
  subst hpc
  exact ⟨_, fetch_ok s ha, bigEndian_toNat _ _⟩

theorem fetch_jumpTo_value (s : State) {a : Nat} (ha : a + 1 ≤ 0xFFF) :
    ∃ op, fetch (s.jumpTo (BitVec.ofNat 16 a)) = .ok op ∧ op.toNat = (s.peek a).toNat * 256 + (s.peek (a + 1)).toNat :=
  fetch_value (s := s.jumpTo (BitVec.ofNat 16 a)) ((BitVec.toNat_ofNat a 16).trans (Nat.mod_eq_of_lt (by omega))) ha

/-- Settles O24: LOAD is a block write from 0x200, the pc of RESET, and the byte behind an image of odd length, which
leaves room for it, is still the 0 of RESET. -/
theorem firstOpcodeIsTheImagesFirstWord : Obligations.FirstOpcodeIsTheImagesFirstWord := by
  intro p d bytes hne hfits
  refine ⟨_, load_fits _ hfits, peek_pokeBytes_getElem _ 0x200 bytes 0 hne, ?_, fun hodd => ?_⟩
  · exact fetch_value (congrArg BitVec.toNat (pokeBytes_pc _ _ _)) (by omega)
  · have hlast := peek_pokeBytes_getElem (State.resetWith p d) 0x200 bytes (bytes.length - 1) (by omega)
    have hbehind : ((State.resetWith p d).pokeBytes 0x200 bytes).peek (0x200 + (bytes.length - 1) + 1) = 0#8 := by
      rw [peek_pokeBytes_outside _ _ _ _ (by omega), resetWith_peek_of_le p d (by omega)]
    obtain ⟨op, hfetch, hop⟩ := fetch_jumpTo_value ((State.resetWith p d).pokeBytes 0x200 bytes)
      (a := 0x200 + (bytes.length - 1)) (by omega)
    rw [hlast, hbehind, BitVec.toNat_zero, Nat.add_zero] at hop
    exact ⟨op, hfetch, hop⟩

end Sys2Proof.Machine

/-! ## Proofs: what a run of transactions cannot change -/

namespace Sys2Proof.Machine

/-- A property that each transaction of a list keeps holds after the list. -/
theorem State.run_keeps {P : State → Prop} (ts : List Transaction) : ∀ s : State,
    (∀ t ∈ ts, ∀ u : State, P u → P (u.after t)) → P s → P (s.run ts) := by
  induction ts with
  | nil => intro s _ hs; exact hs
  | cons t ts ih =>
    intro s hkeeps hs
    obtain ⟨ht, hts⟩ := List.forall_mem_cons.1 hkeeps
    exact ih (s.after t) hts (ht s hs)

/-! ### The parameters -/

theorem writes_params (i : Instr) (s : State) : ¬ writes i s .params := by
  cases i <;> simp [writes]

theorem doStep_params (s : State) : s.doStep.params = s.params := by
  obtain ⟨-, h⟩ | ⟨-, f, h⟩ | ⟨i, hi⟩ := step_next_cases (step_eq_next_doStep s)
  · rw [h]
  · rw [h]
  · exact hi.sameAt (e := .params) (writes_params i s) nofun

/-- What LOAD leaves differs from the state before it in memory alone (00_scope R13). -/
theorem after_load_eq (s : State) (bytes : List Byte) : ∃ mem, s.after (.load bytes) = { s with mem := mem } := by
  by_cases hfits : bytes.length ≤ maxImage
  · exact ⟨_, (congrArg (Option.getD · s) (load_fits s hfits)).trans (pokeBytes_eq bytes s 0x200)⟩
  · exact ⟨s.mem, congrArg (Option.getD · s) (load_oversize s (Nat.lt_of_not_le hfits))⟩

theorem after_params (s : State) (t : Transaction) : (s.after t).params = s.params := by
  cases t with
  | step => exact doStep_params s
  | load bytes =>
    obtain ⟨mem, h⟩ := after_load_eq s bytes
    rw [h]
  | reset | tick | readState => rfl

/-- Settles O19, transaction by transaction: no table lets an instruction write the parameters. -/
theorem nothingChangesTheParameters : Obligations.NothingChangesTheParameters := fun s ts =>
  State.run_keeps (P := fun u => u.params = s.params) ts s (fun t _ u hu => (after_params u t).trans hu) rfl

/-! ### The latch -/

/-- The second state differs from the first at most in memory and the timers, which LOAD and TICK write in any state. -/
def State.SameButMemoryAndTimers (s t : State) : Prop :=
  ∃ (mem : Memory) (dt st : Byte), t = { s with mem := mem, dt := dt, st := st }

/-- Of a latched core, a transaction other than RESET changes at most memory and the timers. -/
theorem State.SameButMemoryAndTimers.after {s u : State} {f : Fault} (hf : s.fault = some f)
    (h : s.SameButMemoryAndTimers u) {t : Transaction} (ht : t ≠ .reset) : s.SameButMemoryAndTimers (u.after t) := by
  obtain ⟨mem, dt, st, rfl⟩ := h
  cases t with
  | step => exact ⟨mem, dt, st, doStep_of_step_next (step_latched hf)⟩
  | reset => exact absurd rfl ht
  | load bytes =>
    obtain ⟨mem', h⟩ := after_load_eq { s with mem := mem, dt := dt, st := st } bytes
    exact ⟨mem', dt, st, h⟩
  | tick => exact ⟨mem, tickTimer dt, tickTimer st, rfl⟩
  | readState => exact ⟨mem, dt, st, rfl⟩

/-- Settles O13: without a RESET a latched core stays as it is, memory and the timers apart. -/
theorem onlyResetClearsTheLatch : Obligations.OnlyResetClearsTheLatch := by
  intro s f ts hf hts
  obtain ⟨mem, dt, st, hrun⟩ : s.SameButMemoryAndTimers (s.run ts) :=
    State.run_keeps ts s (fun t ht u hu => hu.after hf (hts t ht)) ⟨s.mem, s.dt, s.st, rfl⟩
  have hlatched : (s.run ts).fault = some f := by rw [hrun]; exact hf
  refine ⟨fun hsafe => ?_, hlatched, ?_⟩
  · cases hlatched.symm.trans hsafe
  · rw [hrun]
    exact ⟨rfl, rfl, rfl, rfl, rfl, rfl, rfl⟩

end Sys2Proof.Machine

/-! ## Proofs: returns, skips and the faults of fetch and stack -/

namespace Sys2Proof.Machine

/-- Settles O8: the fetch leaves memory, and its payload as a word is max(pc, 0x1000). -/
theorem fetchBeyondMemoryFaults : Obligations.FetchBeyondMemoryFaults := by
  intro s hclear hpc
  rw [← lowestOutside_eq_ofNat_max]
  exact step_of_fetch_error hclear (fetch_error s hpc)

/-- Settles O29, by the outcomes of Push and Pop at the ends of the stack. -/
theorem stackLimitsFault : Obligations.StackLimitsFault := fun s nnn => ⟨execCall_full s nnn, execRet_empty s⟩

/-- Settles O28: RET is a pop, then a jump behind the popped address. -/
theorem returnResumesAfterThePoppedCall : Obligations.ReturnResumesAfterThePoppedCall := by
  intro s hsp
  have hrun := execRet_ok s hsp.ne'
  exact ⟨_, hrun, rfl, rfl, (execRet_changesOnly hsp.ne' hrun).mono fun _ => Or.symm⟩

/-- Settles O31: the entry that RET pops is the one CALL pushed, at the SP before it. -/
theorem callThenReturnResumesBehindTheCall : Obligations.CallThenReturnResumesBehindTheCall := by
  intro s nnn hsp
  obtain ⟨t, hcall, hpushed, hdepth, -, -⟩ := callPushesItsOwnAddress s nnn hsp
  refine ⟨t, hcall, fun pc' regs' => ?_⟩
  have htop : t.sp.val - 1 = s.sp.val := by omega
  obtain ⟨u, hret, hsp', hpc, -⟩ := returnResumesAfterThePoppedCall { t with pc := pc', regs := regs' }
    (show 0 < t.sp.val by omega)
  refine ⟨u, hret, ?_, Fin.ext (hsp'.trans htop)⟩
  simp only [htop, hpushed] at hpc
  exact hpc

/-- An instruction that skips where `taken`: where `P` holds it is taken, where `Q` holds it is not. -/
theorem exec_skips {i : Instr} {s : State} {taken : Bool} {P Q : Prop} (h : exec i s = .next (s.skipIf taken))
    (hP : P → taken = true) (hQ : Q → taken = false) :
    ∃ t, exec i s = .next t ∧ s.changesOnly t (· = .pc) ∧ (P → t.pc = s.pc + 4) ∧ (Q → t.pc = s.pc + 2) :=
  ⟨_, h, skipIf_changesOnly s taken, fun hp => if_pos (hP hp), fun hq => if_neg (Bool.eq_false_iff.1 (hQ hq))⟩

/-- Settles O32: each skip is taken exactly where its comparison gives true. -/
theorem skipsAdvanceByTwoOrFour : Obligations.SkipsAdvanceByTwoOrFour := fun _ _ _ _ =>
  ⟨exec_skips rfl beq_iff_eq.2 beq_eq_false_iff_ne.2, exec_skips rfl bne_iff_ne.2 bne_eq_false_iff_eq.2,
    exec_skips rfl beq_iff_eq.2 beq_eq_false_iff_ne.2, exec_skips rfl bne_iff_ne.2 bne_eq_false_iff_eq.2⟩

end Sys2Proof.Machine

/-! ## Proofs: arithmetic and its flags -/

namespace Sys2Proof.Machine

/-- Settles O35: ADD_IMM is one write of Vx, of a sum of bytes. -/
theorem addImmediateWrapsWithoutAFlag : Obligations.AddImmediateWrapsWithoutAFlag := by
  intro s x nn
  obtain ⟨t, hrun, hx, hpc, hframe⟩ := exec_writes_vx_alone (i := .addImm x nn) (s := s) rfl
  refine ⟨t, hrun, ?_, hpc, hframe⟩
  rw [hx, BitVec.toNat_add]

/-! ### The flags as numbers -/

theorem flagByte_toNat (b : Bool) : (flagByte b).toNat = if b then 1 else 0 := by
  cases b <;> rfl

/-- The carry is the ninth bit of the sum (42_register_alu R143). -/
theorem add_carryOut (a b : Byte) : (a + b).toNat + 256 * (flagByte (carryOut a b)).toNat = a.toNat + b.toNat := by
  have ha := a.isLt
  have hb := b.isLt
  simp only [flagByte_toNat, carryOut, decide_eq_true_eq, BitVec.toNat_add]
  split <;> omega

/-- Where there is a borrow the difference is 256 more (42_register_alu R143). -/
theorem sub_noBorrow (a b : Byte) :
    (a - b).toNat + b.toNat = a.toNat + 256 * (1 - (flagByte (noBorrow a b)).toNat) := by
  have ha := a.isLt
  have hb := b.isLt
  simp only [flagByte_toNat, noBorrow, decide_eq_true_eq, BitVec.toNat_sub]
  split <;> omega

theorem flagByte_lowBit_toNat (v : Byte) : (flagByte (lowBit v)).toNat = v.toNat % 2 := by
  simp only [flagByte_toNat, lowBit, ← BitVec.testBit_toNat, Nat.testBit_zero, decide_eq_true_eq]
  split <;> omega

theorem flagByte_highBit_toNat (v : Byte) : (flagByte (highBit v)).toNat = v.toNat / 128 := by
  have hv := v.isLt
  simp only [flagByte_toNat, highBit, ← BitVec.testBit_toNat, Nat.testBit_eq_decide_div_mod_eq, decide_eq_true_eq]
  split <;> omega

/-- A right shift is a division, also by an amount that leaves nothing (42_register_alu R140). -/
theorem shiftRight_toNat (v : Byte) (k : Nat) : (shiftRight v k).toNat = v.toNat / 2 ^ k := by
  have hv := v.isLt
  unfold shiftRight
  split
  · next hk =>
    have hpow : 2 ^ 8 ≤ 2 ^ k := Nat.pow_le_pow_right (by omega) hk
    exact (Nat.div_eq_of_lt (by omega)).symm
  · exact byte_toNat_ofNat ((Nat.div_le_self _ _).trans (by omega))

/-- A left shift is a multiplication modulo 256, also by an amount that leaves nothing (42_register_alu R142). -/
theorem shiftLeft_toNat (v : Byte) (k : Nat) : (shiftLeft v k).toNat = v.toNat * 2 ^ k % 256 := by
  unfold shiftLeft
  split
  · next hk =>
    have hdvd : 2 ^ 8 ∣ v.toNat * 2 ^ k := (Nat.pow_dvd_pow 2 hk).mul_left v.toNat
    exact (Nat.mod_eq_zero_of_dvd hdvd).symm
  · exact BitVec.toNat_ofNat _ 8

/-! ### A result and then its flag -/

/-- An instruction that writes a result to Vx, then a flag to VF, and advances (42_register_alu R131). -/
theorem exec_writes_result_then_flag {i : Instr} {s : State} {x : Reg} {v : Byte} {flag : Bool}
    (h : exec i s = .next (s.setResultThenFlag x v flag).advance) :
    ∃ t, exec i s = .next t ∧ t.pc = s.pc + 2 ∧ t.getV vf = flagByte flag ∧ (x ≠ vf → t.getV x = v) ∧
      s.changesOnly t fun e => e = .v x ∨ e = .v vf ∨ e = .pc := by
  refine ⟨_, h, rfl, ?_, fun hx => ?_, (setResultThenFlag_changesOnly s x v flag).advance.mono fun _ => or_assoc.1⟩
  · rw [State.advance_getV, State.getV_setResultThenFlag, if_pos rfl]
  · rw [State.advance_getV, State.getV_setResultThenFlag, if_neg hx, if_pos rfl]

/-- Settles O36: the flag is the carry, and the carry is the ninth bit of the sum. -/
theorem addRegGivesSumAndCarry : Obligations.AddRegGivesSumAndCarry := by
  intro s x y
  obtain ⟨t, hrun, hpc, hflag, hx, hframe⟩ := exec_writes_result_then_flag (i := .addReg x y) (s := s) rfl
  refine ⟨t, hrun, hpc, ?_, fun hne => ?_, hframe⟩
  · rw [hflag, flagByte_toNat]
    simp only [carryOut, decide_eq_true_eq]
  · rw [hx hne, hflag, add_carryOut]

/-- An instruction that writes the difference of `a` and `b` to Vx, then whether there is no borrow to VF. -/
theorem exec_subtracts {i : Instr} {s : State} {x : Reg} {a b : Byte}
    (h : exec i s = .next (s.setResultThenFlag x (a - b) (noBorrow a b)).advance) :
    ∃ t, exec i s = .next t ∧ t.pc = s.pc + 2 ∧ (t.getV vf).toNat = (if a.toNat ≥ b.toNat then 1 else 0) ∧
      (x ≠ vf → (t.getV x).toNat + b.toNat = a.toNat + 256 * (1 - (t.getV vf).toNat)) ∧
      s.changesOnly t fun e => e = .v x ∨ e = .v vf ∨ e = .pc := by
  obtain ⟨t, hrun, hpc, hflag, hx, hframe⟩ := exec_writes_result_then_flag h
  refine ⟨t, hrun, hpc, ?_, fun hne => ?_, hframe⟩
  · rw [hflag, flagByte_toNat]
    simp only [noBorrow, decide_eq_true_eq]
  · rw [hx hne, hflag, sub_noBorrow]

/-- Settles O37: SUBN is SUB with the operands exchanged. -/
theorem subtractsGiveDifferenceAndNoBorrow : Obligations.SubtractsGiveDifferenceAndNoBorrow := fun _ _ _ =>
  ⟨exec_subtracts rfl, exec_subtracts rfl⟩

/-- Settles O38: the amount k is that of the model, and the two shifts divide and multiply by 2^k. -/
theorem shiftsMoveByVyOrByOne : Obligations.ShiftsMoveByVyOrByOne := by
  intro s x y k hk
  have hamount : shiftAmount s y = k := hk.symm
  constructor
  · obtain ⟨t, hrun, hpc, hflag, hx, hframe⟩ := exec_writes_result_then_flag (i := .shr x y) (s := s) rfl
    refine ⟨t, hrun, hpc, ?_, fun hne => ?_, hframe⟩
    · rw [hflag, flagByte_lowBit_toNat]
    · rw [hx hne, hamount, shiftRight_toNat]
  · obtain ⟨t, hrun, hpc, hflag, hx, hframe⟩ := exec_writes_result_then_flag (i := .shl x y) (s := s) rfl
    refine ⟨t, hrun, hpc, ?_, fun hne => ?_, hframe⟩
    · rw [hflag, flagByte_highBit_toNat]
    · rw [hx hne, hamount, shiftLeft_toNat]

end Sys2Proof.Machine

/-! ## Proofs: the index register, and a store undone by a load -/

namespace Sys2Proof.Machine

/-- An instruction that writes I and advances, by the value it writes. -/
theorem exec_writes_i_alone {i : Instr} {s : State} {v : Word} {n : Nat} (h : exec i s = .next (s.setI v).advance)
    (hv : v.toNat = n) :
    ∃ t, exec i s = .next t ∧ t.i.toNat = n ∧ t.pc = s.pc + 2 ∧ s.changesOnly t fun e => e = .i ∨ e = .pc :=
  ⟨_, h, hv, rfl, (setI_changesOnly s v).advance⟩

/-- The address of a glyph, five bytes for each (43_index_memory R152). -/
theorem glyphAddress_toNat (v : Byte) : (glyphAddress v).toNat = v.toNat % 16 * 5 := by
  have hlow : (v &&& 0x0F).toNat = v.toNat % 16 := Nat.and_two_pow_sub_one_eq_mod v.toNat 4
  rw [glyphAddress, fontBase, hlow, BitVec.toNat_ofNat]
  omega

/-- Settles O39: each of the three is one write of I and the normal advance. -/
theorem indexInstructionsSetIAlone : Obligations.IndexInstructionsSetIAlone := by
  intro s x nnn
  have hsum : (s.i + zextByte (s.getV x)).toNat = (s.i.toNat + (s.getV x).toNat) % 65536 := by
    rw [BitVec.toNat_add, zextByte_toNat]
  exact ⟨exec_writes_i_alone rfl (zextAddr_toNat nnn), exec_writes_i_alone rfl hsum,
    exec_writes_i_alone rfl (glyphAddress_toNat (s.getV x))⟩

/-- Settles O44: the load reads the bytes the store wrote, and both add the same to the same I. -/
theorem loadRegistersUndoesStoreRegisters : Obligations.LoadRegistersUndoesStoreRegisters := by
  intro s x regs' hfits
  obtain ⟨t, hstore, -, hti, hstored, -⟩ := storeRegistersWritesXPlusOneBytes s x hfits
  obtain ⟨u, hload, -, hui, hloaded, -⟩ := loadRegistersReadsXPlusOneBytes { t with i := s.i, regs := regs' } x hfits
  exact ⟨t, u, hstore, hload, BitVec.eq_of_toNat_eq (hui.trans hti.symm), fun r hr => (hloaded r hr).trans (hstored r hr)⟩

end Sys2Proof.Machine
